-- ==== Sys2Proof/Word.lean ====
section
/-! DEFINITION. The words of the machine: what the spec treats as bits of a fixed width. -/

namespace Sys2Proof

/-- A memory cell, a general register, a timer or an immediate `kk`: 8 bits (R20, R31, R32). -/
abbrev Byte := BitVec 8

/-- An opcode, `I`, `PC` or a call-stack entry: 16 bits (R22, R23, R28, R90). -/
abbrev Word := BitVec 16

/-- A 4-bit field of an opcode: a register index `x` or `y`, the count `n`, a key number (R91). -/
abbrev Nibble := BitVec 4

/-- The 12-bit address operand `nnn` (R91). -/
abbrev Addr12 := BitVec 12

/-- One row of the display: 64 pixels of one bit, bit `px` the pixel of column `px` (R32, R214). -/
abbrev PixelRow := BitVec 64

/-- The key states: bit `k` is 1 when key `k` is pressed (R32, R234). -/
abbrev Keys := BitVec 16

end Sys2Proof
end

