-- ==== Sys2Proof/Machine/Flags.lean ====
section
/-! DEFINITION. Flag values: the 0 or 1 that a flag instruction writes into VF (R21, R26). -/

namespace Sys2Proof.Machine

/-- A truth value as the byte VF holds (R26). -/
def flagByte (b : Bool) : Byte := if b then 1 else 0

/-- Carry of 8xy4: 1 if the unwrapped sum exceeds 255 (R166). -/
def carryFlag (a b : Byte) : Byte := flagByte (decide (255 < a.toNat + b.toNat))

/-- "No borrow" of `a - b`: 1 if `a >= b` before the subtraction (R167, R169, R172). -/
def noBorrowFlag (a b : Byte) : Byte := flagByte (decide (b.toNat ≤ a.toNat))

/-- The bit a right shift moves out: the least significant bit before the shift (R168). -/
def shiftedOutRight (a : Byte) : Byte := flagByte (a.getLsbD 0)

/-- The bit a left shift moves out: the most significant bit before the shift (R170). -/
def shiftedOutLeft (a : Byte) : Byte := flagByte (a.getLsbD 7)

end Sys2Proof.Machine
end

