-- ==== Sys2Proof/Syntax.lean ====
section
/-! DEFINITION. The instructions: one constructor for each of the 34 rows of the opcode table (R95). -/

namespace Sys2Proof

/-- The instruction set, in the order of spec/opcode_table.json. The argument types are the field widths of
R91: `x`, `y` register indices and `n` a count of 4 bits, `kk` 8 bits, `nnn` 12 bits. `shrVx` and `shlVx`
carry the `y` field that R95 says is decoded and then ignored, so that an encoding loses no bit. -/
inductive Instr where
  | cls
  | ret
  | jp (nnn : Addr12)
  | call (nnn : Addr12)
  | seVxKk (x : Nibble) (kk : Byte)
  | sneVxKk (x : Nibble) (kk : Byte)
  | seVxVy (x y : Nibble)
  | sneVxVy (x y : Nibble)
  | ldVxKk (x : Nibble) (kk : Byte)
  | addVxKk (x : Nibble) (kk : Byte)
  | ldVxVy (x y : Nibble)
  | orVxVy (x y : Nibble)
  | andVxVy (x y : Nibble)
  | xorVxVy (x y : Nibble)
  | addVxVy (x y : Nibble)
  | subVxVy (x y : Nibble)
  | shrVx (x y : Nibble)
  | subnVxVy (x y : Nibble)
  | shlVx (x y : Nibble)
  | ldINnn (nnn : Addr12)
  | jpV0 (nnn : Addr12)
  | rnd (x : Nibble) (kk : Byte)
  | drw (x y n : Nibble)
  | skp (x : Nibble)
  | sknp (x : Nibble)
  | ldVxDt (x : Nibble)
  | ldVxK (x : Nibble)
  | ldDtVx (x : Nibble)
  | ldStVx (x : Nibble)
  | addIVx (x : Nibble)
  | ldFVx (x : Nibble)
  | ldBVx (x : Nibble)
  | ldMemVx (x : Nibble)
  | ldVxMem (x : Nibble)
  deriving DecidableEq, Repr

end Sys2Proof
end

