-- ==== Sys2Proof/Decode.lean ====
section
/-! DEFINITION. Decoding and encoding of the 16-bit opcodes (R90 to R101). -/

namespace Sys2Proof

/-! ### The fields of an opcode (R91) -/

/-- `fam = op[15:12]`, the instruction family (R91). -/
def opFam (op : Word) : Nibble := op.extractLsb' 12 4

/-- `nnn = op[11:0]`, the address operand (R91). -/
def opNnn (op : Word) : Addr12 := op.extractLsb' 0 12

/-- `x = op[11:8]`, the first register index (R91). -/
def opX (op : Word) : Nibble := op.extractLsb' 8 4

/-- `y = op[7:4]`, the second register index (R91). -/
def opY (op : Word) : Nibble := op.extractLsb' 4 4

/-- `kk = op[7:0]`, the immediate, and the selector of families 0xE and 0xF (R91). -/
def opKk (op : Word) : Byte := op.extractLsb' 0 8

/-- `n = op[3:0]`, the selector of families 0x5, 0x8, 0x9 and the height of `Dxyn` (R91). -/
def opN (op : Word) : Nibble := op.extractLsb' 0 4

/-! ### Decoding (R94) -/

/-- Family 0x8, selected by the low nibble `n` (R94). -/
def decodeFam8 (op : Word) : Option Instr :=
  match (opN op).toNat with
  | 0x0 => some (.ldVxVy (opX op) (opY op))
  | 0x1 => some (.orVxVy (opX op) (opY op))
  | 0x2 => some (.andVxVy (opX op) (opY op))
  | 0x3 => some (.xorVxVy (opX op) (opY op))
  | 0x4 => some (.addVxVy (opX op) (opY op))
  | 0x5 => some (.subVxVy (opX op) (opY op))
  | 0x6 => some (.shrVx (opX op) (opY op))
  | 0x7 => some (.subnVxVy (opX op) (opY op))
  | 0xE => some (.shlVx (opX op) (opY op))
  | _ => none

/-- Family 0xE, selected by the whole low byte `kk` (R94). -/
def decodeFamE (op : Word) : Option Instr :=
  match (opKk op).toNat with
  | 0x9E => some (.skp (opX op))
  | 0xA1 => some (.sknp (opX op))
  | _ => none

/-- Family 0xF, selected by the whole low byte `kk` (R94). -/
def decodeFamF (op : Word) : Option Instr :=
  match (opKk op).toNat with
  | 0x07 => some (.ldVxDt (opX op))
  | 0x0A => some (.ldVxK (opX op))
  | 0x15 => some (.ldDtVx (opX op))
  | 0x18 => some (.ldStVx (opX op))
  | 0x1E => some (.addIVx (opX op))
  | 0x29 => some (.ldFVx (opX op))
  | 0x33 => some (.ldBVx (opX op))
  | 0x55 => some (.ldMemVx (opX op))
  | 0x65 => some (.ldVxMem (opX op))
  | _ => none

/-- The decoder of R94: total on the 65536 opcodes; `none` is the spec's `Unknown` (R96). The families are
those of the leading nibble, all sixteen listed; the last arm is for no value of 4 bits. -/
def decode (op : Word) : Option Instr :=
  match (opFam op).toNat with
  | 0x0 => if op = 0x00E0 then some .cls else if op = 0x00EE then some .ret else none
  | 0x1 => some (.jp (opNnn op))
  | 0x2 => some (.call (opNnn op))
  | 0x3 => some (.seVxKk (opX op) (opKk op))
  | 0x4 => some (.sneVxKk (opX op) (opKk op))
  | 0x5 => if opN op = 0x0 then some (.seVxVy (opX op) (opY op)) else none
  | 0x6 => some (.ldVxKk (opX op) (opKk op))
  | 0x7 => some (.addVxKk (opX op) (opKk op))
  | 0x8 => decodeFam8 op
  | 0x9 => if opN op = 0x0 then some (.sneVxVy (opX op) (opY op)) else none
  | 0xA => some (.ldINnn (opNnn op))
  | 0xB => some (.jpV0 (opNnn op))
  | 0xC => some (.rnd (opX op) (opKk op))
  | 0xD => some (.drw (opX op) (opY op) (opN op))
  | 0xE => decodeFamE op
  | 0xF => decodeFamF op
  | _ => none

/-- Why bytes are no instruction. -/
inductive DecodeError where
  /-- Fewer than the two bytes that every instruction takes (R90). -/
  | truncated
  /-- The opcode matches no row of R95 (R96). -/
  | unknownOpcode (op : Word)
  deriving DecidableEq, Repr

/-- The opcode made of two consecutive bytes, the one at the lower address the more significant (R64, R90). -/
def opcodeOfBytes (hi lo : Byte) : Word := hi ++ lo

/-- The byte of an opcode that stands at the lower address: `op[15:8]` (R100). -/
def opcodeHi (op : Word) : Byte := op.extractLsb' 8 8

/-- The byte of an opcode that stands at the higher address: `op[7:0]` (R100). -/
def opcodeLo (op : Word) : Byte := op.extractLsb' 0 8

/-- Decoding of bytes in memory order: the instruction and the bytes after it, or the reason there is none. -/
def decodeBytes : List Byte → Except DecodeError (Instr × List Byte)
  | hi :: lo :: rest =>
    match decode (opcodeOfBytes hi lo) with
    | some i => .ok (i, rest)
    | none => .error (.unknownOpcode (opcodeOfBytes hi lo))
  | _ => .error .truncated

/-- The instruction the decoder reads from an opcode-table word: bit 0 of `w` is bit 0 of the opcode, the bits
above `nbits` are 0, and the opcode is laid out big end first as memory holds it (R64). -/
def decodeTableWord (nbits w : Nat) : Option Instr :=
  let op : Word := BitVec.ofNat 16 (w % 2 ^ nbits)
  match decodeBytes [opcodeHi op, opcodeLo op] with
  | .ok (i, _) => some i
  | .error _ => none

/-! ### The opcode table (R95) -/

/-- One row of R95: an opcode `op` is the row's instruction when `op AND mask = pattern`. -/
structure OpcodeRow where
  pattern : Word
  mask : Word
  deriving DecidableEq, Repr

/-- `op` satisfies the row (R95). -/
abbrev OpcodeRow.accepts (r : OpcodeRow) (op : Word) : Prop := op &&& r.mask = r.pattern

/-- The row of R95 that an instruction belongs to. -/
def Instr.row : Instr → OpcodeRow
  | .cls => ⟨0x00E0, 0xFFFF⟩
  | .ret => ⟨0x00EE, 0xFFFF⟩
  | .jp _ => ⟨0x1000, 0xF000⟩
  | .call _ => ⟨0x2000, 0xF000⟩
  | .seVxKk _ _ => ⟨0x3000, 0xF000⟩
  | .sneVxKk _ _ => ⟨0x4000, 0xF000⟩
  | .seVxVy _ _ => ⟨0x5000, 0xF00F⟩
  | .sneVxVy _ _ => ⟨0x9000, 0xF00F⟩
  | .ldVxKk _ _ => ⟨0x6000, 0xF000⟩
  | .addVxKk _ _ => ⟨0x7000, 0xF000⟩
  | .ldVxVy _ _ => ⟨0x8000, 0xF00F⟩
  | .orVxVy _ _ => ⟨0x8001, 0xF00F⟩
  | .andVxVy _ _ => ⟨0x8002, 0xF00F⟩
  | .xorVxVy _ _ => ⟨0x8003, 0xF00F⟩
  | .addVxVy _ _ => ⟨0x8004, 0xF00F⟩
  | .subVxVy _ _ => ⟨0x8005, 0xF00F⟩
  | .shrVx _ _ => ⟨0x8006, 0xF00F⟩
  | .subnVxVy _ _ => ⟨0x8007, 0xF00F⟩
  | .shlVx _ _ => ⟨0x800E, 0xF00F⟩
  | .ldINnn _ => ⟨0xA000, 0xF000⟩
  | .jpV0 _ => ⟨0xB000, 0xF000⟩
  | .rnd _ _ => ⟨0xC000, 0xF000⟩
  | .drw _ _ _ => ⟨0xD000, 0xF000⟩
  | .skp _ => ⟨0xE09E, 0xF0FF⟩
  | .sknp _ => ⟨0xE0A1, 0xF0FF⟩
  | .ldVxDt _ => ⟨0xF007, 0xF0FF⟩
  | .ldVxK _ => ⟨0xF00A, 0xF0FF⟩
  | .ldDtVx _ => ⟨0xF015, 0xF0FF⟩
  | .ldStVx _ => ⟨0xF018, 0xF0FF⟩
  | .addIVx _ => ⟨0xF01E, 0xF0FF⟩
  | .ldFVx _ => ⟨0xF029, 0xF0FF⟩
  | .ldBVx _ => ⟨0xF033, 0xF0FF⟩
  | .ldMemVx _ => ⟨0xF055, 0xF0FF⟩
  | .ldVxMem _ => ⟨0xF065, 0xF0FF⟩

/-- All 34 rows of R95, in the table's order. -/
def opcodeTable : List OpcodeRow :=
  ([⟨0x00E0, 0xFFFF⟩, ⟨0x00EE, 0xFFFF⟩, ⟨0x1000, 0xF000⟩, ⟨0x2000, 0xF000⟩, ⟨0x3000, 0xF000⟩, ⟨0x4000, 0xF000⟩] ++
   [⟨0x5000, 0xF00F⟩, ⟨0x9000, 0xF00F⟩, ⟨0x6000, 0xF000⟩, ⟨0x7000, 0xF000⟩, ⟨0x8000, 0xF00F⟩, ⟨0x8001, 0xF00F⟩] ++
   [⟨0x8002, 0xF00F⟩, ⟨0x8003, 0xF00F⟩, ⟨0x8004, 0xF00F⟩, ⟨0x8005, 0xF00F⟩, ⟨0x8006, 0xF00F⟩, ⟨0x8007, 0xF00F⟩] ++
   [⟨0x800E, 0xF00F⟩, ⟨0xA000, 0xF000⟩, ⟨0xB000, 0xF000⟩, ⟨0xC000, 0xF000⟩, ⟨0xD000, 0xF000⟩, ⟨0xE09E, 0xF0FF⟩] ++
   [⟨0xE0A1, 0xF0FF⟩, ⟨0xF007, 0xF0FF⟩, ⟨0xF00A, 0xF0FF⟩, ⟨0xF015, 0xF0FF⟩, ⟨0xF018, 0xF0FF⟩, ⟨0xF01E, 0xF0FF⟩] ++
   [⟨0xF029, 0xF0FF⟩, ⟨0xF033, 0xF0FF⟩, ⟨0xF055, 0xF0FF⟩, ⟨0xF065, 0xF0FF⟩])

/-! ### Encoding (R92, R100) -/

/-- Format Z: the whole word is fixed (R92). -/
def formatZ (op : Word) : Word := op

/-- Format A: family and `nnn` (R92). -/
def formatA (fam : Nibble) (nnn : Addr12) : Word := fam ++ nnn

/-- Format XK: family, `x` and `kk` (R92). -/
def formatXK (fam x : Nibble) (kk : Byte) : Word := fam ++ (x ++ kk)

/-- Formats XY and XYN: family, `x`, `y` and the low nibble, a fixed selector in XY and `n` in XYN (R92). -/
def formatXYN (fam x y n : Nibble) : Word := fam ++ (x ++ (y ++ n))

/-- Format XS: family, `x` and a fixed selector byte (R92). -/
def formatXS (fam x : Nibble) (sel : Byte) : Word := fam ++ (x ++ sel)

/-- The opcode of an instruction (R100). -/
def encode : Instr → Word
  | .cls => formatZ 0x00E0
  | .ret => formatZ 0x00EE
  | .jp nnn => formatA 0x1 nnn
  | .call nnn => formatA 0x2 nnn
  | .seVxKk x kk => formatXK 0x3 x kk
  | .sneVxKk x kk => formatXK 0x4 x kk
  | .seVxVy x y => formatXYN 0x5 x y 0x0
  | .sneVxVy x y => formatXYN 0x9 x y 0x0
  | .ldVxKk x kk => formatXK 0x6 x kk
  | .addVxKk x kk => formatXK 0x7 x kk
  | .ldVxVy x y => formatXYN 0x8 x y 0x0
  | .orVxVy x y => formatXYN 0x8 x y 0x1
  | .andVxVy x y => formatXYN 0x8 x y 0x2
  | .xorVxVy x y => formatXYN 0x8 x y 0x3
  | .addVxVy x y => formatXYN 0x8 x y 0x4
  | .subVxVy x y => formatXYN 0x8 x y 0x5
  | .shrVx x y => formatXYN 0x8 x y 0x6
  | .subnVxVy x y => formatXYN 0x8 x y 0x7
  | .shlVx x y => formatXYN 0x8 x y 0xE
  | .ldINnn nnn => formatA 0xA nnn
  | .jpV0 nnn => formatA 0xB nnn
  | .rnd x kk => formatXK 0xC x kk
  | .drw x y n => formatXYN 0xD x y n
  | .skp x => formatXS 0xE x 0x9E
  | .sknp x => formatXS 0xE x 0xA1
  | .ldVxDt x => formatXS 0xF x 0x07
  | .ldVxK x => formatXS 0xF x 0x0A
  | .ldDtVx x => formatXS 0xF x 0x15
  | .ldStVx x => formatXS 0xF x 0x18
  | .addIVx x => formatXS 0xF x 0x1E
  | .ldFVx x => formatXS 0xF x 0x29
  | .ldBVx x => formatXS 0xF x 0x33
  | .ldMemVx x => formatXS 0xF x 0x55
  | .ldVxMem x => formatXS 0xF x 0x65

/-- The two bytes of an instruction in memory order, `op[15:8]` first (R100). -/
def encodeBytes (i : Instr) : List Byte := [opcodeHi (encode i), opcodeLo (encode i)]

end Sys2Proof
end

