-- ==== Sys2Proof/Machine/Operands.lean ====
section
/-! DEFINITION. Operand values: extensions, the low four bits of a register, digits, positions (R93, R192, R193,
R211, R237). -/

namespace Sys2Proof.Machine

/-- `zext_16` of the 12-bit address operand (R93). -/
def zextAddr (nnn : Addr12) : Word := nnn.zeroExtend 16

/-- `zext_16` of an 8-bit value (R147, R191). -/
def zextByte (b : Byte) : Word := b.zeroExtend 16

/-- `zext_8` of a key number (R234). -/
def zextNibble (k : Nibble) : Byte := k.zeroExtend 8

/-- `v AND 0x0F`: the key or the digit that a register names. The spec's choice for values above 15 (D8 and D9,
log 17; R237, R192). -/
def lowNibble (v : Byte) : Nibble := v.extractLsb' 0 4

/-- The hundreds digit of a byte, 0 to 2 (R193). -/
def hundredsDigit (v : Byte) : Byte := BitVec.ofNat 8 (v.toNat / 100)

/-- The tens digit of a byte (R193). -/
def tensDigit (v : Byte) : Byte := BitVec.ofNat 8 (v.toNat / 10 % 10)

/-- The ones digit of a byte (R193). -/
def onesDigit (v : Byte) : Byte := BitVec.ofNat 8 (v.toNat % 10)

/-- The three decimal digits in memory order: hundreds, tens, ones (R193). -/
def decimalDigits (v : Byte) : List Byte := [hundredsDigit v, tensDigit v, onesDigit v]

/-- The column a sprite starts at: `V[x] mod 64` (R211). -/
def startColumn (v : Byte) : Nat := v.toNat % 64

/-- The row a sprite starts at: `V[y] mod 32` (R211). -/
def startRow (v : Byte) : Nat := v.toNat % 32

end Sys2Proof.Machine
end

