-- ==== Sys2Proof/Config.lean ====
section
/-! DEFINITION. What is fixed for the life of an instance (R6, R27, R258), and the one free value (R171, R255). -/

namespace Sys2Proof

/-- UNKNOWN_OPCODE_POLICY of R6: what a step does with an opcode outside the table (R125). -/
inductive UnknownOpcodePolicy where
  /-- The spec's `continue`: report, and go on as a no-operation. -/
  | continuing
  /-- The spec's `halt`: a fatal error. -/
  | halting
  deriving DecidableEq, Repr

/-- The parameters of R6 that an instance is created with. They are no registers (R27): no operation changes
them. State carries them as plain data so that every statement about all states covers every configuration
(log 3). -/
structure Config where
  /-- UNKNOWN_OPCODE_POLICY (R6, R125). -/
  unknownOpcodePolicy : UnknownOpcodePolicy
  /-- FONT_BASE, the address of the first font byte (R6, R311). -/
  fontBase : Nat
  /-- FONT[0..79] (R6, R311). -/
  font : Vector Byte 80
  deriving DecidableEq, Repr

/-- The constraint R6 puts on FONT_BASE: the 80 font bytes lie inside the reserved region 0x000 to 0x1FF. -/
abbrev Config.wellFormed (c : Config) : Prop := c.fontBase + 79 ≤ 0x1FF

/-- The random bytes of Cxkk, one for each draw: "a fresh 8-bit value supplied from outside the rules at each
use; nothing relates two draws". DESIGN CHOICE (log 1): a constant with no body, applied to the number of the
draw, so that whatever is proved holds for every sequence of bytes. -/
opaque Config.randByte : Nat → Byte

end Sys2Proof
end

