-- ==== Sys2Proof/Machine/Font.lean ====
section
/-! DEFINITION. The font (R311), the default configuration (R6) and what memory holds after `init` (R35, R310). -/

namespace Sys2Proof.Machine

/-- FONT_GLYPH_BYTES of R6: the bytes of one glyph. -/
def fontGlyphBytes : Nat := 5

/-- Glyphs 0 to 3 (R311). PRESUMED by the spec from the customary CHIP-8 font (D4, log 4). -/
def fontGlyphs0to3 : Vector Byte 20 :=
  #v[0xF0, 0x90, 0x90, 0x90, 0xF0,
     0x20, 0x60, 0x20, 0x20, 0x70,
     0xF0, 0x10, 0xF0, 0x80, 0xF0,
     0xF0, 0x10, 0xF0, 0x10, 0xF0]

/-- Glyphs 4 to 7 (R311). -/
def fontGlyphs4to7 : Vector Byte 20 :=
  #v[0x90, 0x90, 0xF0, 0x10, 0x10,
     0xF0, 0x80, 0xF0, 0x10, 0xF0,
     0xF0, 0x80, 0xF0, 0x90, 0xF0,
     0xF0, 0x10, 0x20, 0x40, 0x40]

/-- Glyphs 8 to B (R311). -/
def fontGlyphs8toB : Vector Byte 20 :=
  #v[0xF0, 0x90, 0xF0, 0x90, 0xF0,
     0xF0, 0x90, 0xF0, 0x10, 0xF0,
     0xF0, 0x90, 0xF0, 0x90, 0x90,
     0xE0, 0x90, 0xE0, 0x90, 0xE0]

/-- Glyphs C to F (R311). -/
def fontGlyphsCtoF : Vector Byte 20 :=
  #v[0xF0, 0x80, 0x80, 0x80, 0xF0,
     0xE0, 0x90, 0x90, 0x90, 0xE0,
     0xF0, 0x80, 0xF0, 0x80, 0xF0,
     0xF0, 0x80, 0xF0, 0x80, 0x80]

/-- FONT[0..79]: glyph `d` is at `FONT[5 * d]` to `FONT[5 * d + 4]` (R311). -/
def defaultFont : Vector Byte 80 :=
  fontGlyphs0to3 ++ fontGlyphs4to7 ++ fontGlyphs8toB ++ fontGlyphsCtoF

/-- The defaults of R6: policy `continue`, FONT_BASE 0x050, the font of R311 (log 3, log 4). -/
def defaultConfig : Config :=
  { unknownOpcodePolicy := .continuing, fontBase := 0x050, font := defaultFont }

/-- What address `a` holds after `init`: the font bytes at FONT_BASE to FONT_BASE + 79, 0 elsewhere
(R35, R310). This is what an address that memory does not list reads as. -/
def freshByte (c : Config) (a : Nat) : Byte :=
  if h : c.fontBase ≤ a ∧ a - c.fontBase < 80 then c.font[a - c.fontBase] else 0

end Sys2Proof.Machine
end

