-- ==== Sys2Proof/Machine/State.lean ====
section
/-! DEFINITION. The state of one instance (R20 to R36), the reasons a step stops, and the state after `init`. -/

namespace Sys2Proof.Machine

/-- The executor's mode (R33): there is no halted value. -/
inductive Mode where
  /-- A `step` executes one instruction. -/
  | running
  /-- An `Fx0A` waits: `xw` is its register index, `prev` the key states at the last look. -/
  | waitingForKey (xw : Nibble) (prev : Keys)
  deriving DecidableEq, Repr

/-- Memory: the addresses below 4096 whose byte differs from what `init` leaves there, addresses strictly
rising. An address that is not listed reads as `freshByte` (log 9). -/
abbrev Memory := List Host.Cell

/-- The canonical form of memory under a configuration: addresses strictly rising, all inside 0 to 4095 (R60),
and no entry equal to what an unlisted address reads as. Equal memories are then equal lists. -/
abbrev Memory.wf (c : Config) (m : Memory) : Prop :=
  m.Pairwise (fun p q => p.1 < q.1) ∧ ∀ p ∈ m, p.1 < 4096 ∧ p.2 ≠ freshByte c p.1

/-- The display: 32 rows of 64 pixels; row 0 first (R32, R214, log 14). -/
abbrev Display := Vector PixelRow 32

/-- All state the spec gives one instance (the table of `10_state.md`), its configuration, and the model's
counter of random draws. -/
structure State where
  /-- V0 to VF (R20, R21). -/
  v : Vector Byte 16
  /-- The index register `I` (R22). -/
  i : Word
  /-- The program counter (R23 to R25). -/
  pc : Word
  /-- The stack pointer, "an 8-bit stack pointer" whose value is always 0 to 16 (R28, log 8). -/
  sp : Fin 17
  /-- The call stack, outside memory (R28, R29). -/
  stack : Vector Word 16
  /-- The delay timer (R31). -/
  dt : Byte
  /-- The sound timer (R31). -/
  st : Byte
  /-- Memory, 4096 bytes (R32, R60). -/
  mem : Memory
  /-- The display buffer, 64 x 32 pixels (R32). -/
  fb : Display
  /-- The key states, externally owned (R32). -/
  keys : Keys
  /-- Running or WaitingForKey (R33). -/
  mode : Mode
  /-- The MODEL's own field: how many random bytes have been drawn. DESIGN CHOICE (log 1, log 2). -/
  draws : Nat
  /-- The configuration the instance was created with, which no operation changes (R6, R27, R258, log 3). -/
  config : Config
  deriving DecidableEq, Repr

/-- The five error conditions of R270. Each ends an operation; every one is safe: the model claims nothing of a
run after it (U9), and the state it leaves is given beside it by `cycle` (R127). -/
inductive Fault where
  /-- Raised by the fetch with `PC > 4094` and by DRW, LD_B_VX, LD_MEM_VX, LD_VX_MEM with a data address above
  4095; `addr` is the lowest offending address (R122, R67, R271). Safe: the spec's own error. -/
  | memoryFault (addr : Nat)
  /-- Raised by CALL when `SP = 16` (R142, R272). Safe: the spec's own error. -/
  | stackOverflow
  /-- Raised by RET when `SP = 0` (R140, R273). Safe: the spec's own error. -/
  | stackUnderflow
  /-- Raised by `step` for an opcode outside the table under policy `halt` (R125, R274). Safe: the spec's own
  error. -/
  | unknownOpcode (op : Word)
  /-- Raised by `load_program`, never by `step`, for more than 3584 bytes (R251, R275). Safe: the spec's own
  error. -/
  | romTooLarge
  deriving DecidableEq, Repr

/-- Why an instruction has no meaning. Raised by nothing: every instruction of the table has its meaning. -/
inductive Refusal where
  /-- An instruction that the model leaves out, by its mnemonic. Safe: the model stops. No arm answers it. -/
  | notModelled (mnemonic : String)
  deriving DecidableEq, Repr

/-- The state after `init` of an instance with configuration `c` (R35, R310): memory lists nothing, so it holds
the font and zeros. Keys up and mode Running are D18 (log 5); `draws` is the model's own (log 2). -/
def State.resetWith (c : Config) : State :=
  { v := Vector.replicate 16 0, i := 0, pc := 0x200, sp := 0, stack := Vector.replicate 16 0, dt := 0, st := 0,
    mem := [], fb := Vector.replicate 32 0, keys := 0, mode := .running, draws := 0, config := c }

/-- The machine right after `init`, with the default configuration of R6 (R35, R310). -/
def State.reset : State := State.resetWith defaultConfig

end Sys2Proof.Machine
end

