-- ==== Sys2Proof/Machine/Ops.lean ====
section
/-! DEFINITION. The named operations over registers, memory, stack and program counter, the bounds check, and
the raising of an error. Every meaning is written with these. -/

namespace Sys2Proof.Machine

/-- What a meaning answers. -/
abbrev Answer := Host.Outcome State Fault Refusal

/-! ### Writing one piece of state -/

/-- `PC <- a`. -/
def State.setPc (s : State) (a : Word) : State := { s with pc := a }

/-- `I <- a`. -/
def State.setI (s : State) (a : Word) : State := { s with i := a }

/-- `DT <- b`. -/
def State.setDt (s : State) (b : Byte) : State := { s with dt := b }

/-- `ST <- b`. -/
def State.setSt (s : State) (b : Byte) : State := { s with st := b }

/-- The whole memory replaced. -/
def State.setMem (s : State) (m : Memory) : State := { s with mem := m }

/-- The whole display replaced. -/
def State.setFb (s : State) (d : Display) : State := { s with fb := d }

/-- The key states replaced. -/
def State.setKeys (s : State) (k : Keys) : State := { s with keys := k }

/-- `mode <- m`. -/
def State.setMode (s : State) (m : Mode) : State := { s with mode := m }

/-- The counter of random draws replaced. -/
def State.setDraws (s : State) (n : Nat) : State := { s with draws := n }

/-- All sixteen general registers replaced. -/
def State.setV (s : State) (v : Vector Byte 16) : State := { s with v := v }

/-- The stack pointer and the stack replaced together. -/
def State.setStack (s : State) (sp : Fin 17) (stack : Vector Word 16) : State := { s with sp := sp, stack := stack }

/-! ### General registers (R20, R21) -/

/-- `V[x]`. None of the sixteen is hardwired (R20). -/
def State.reg (s : State) (x : Nibble) : Byte := s.v[x.toNat]'x.isLt

/-- `V[x] <- b` (R20). -/
def State.setReg (s : State) (x : Nibble) (b : Byte) : State := s.setV (s.v.set x.toNat b x.isLt)

/-- The result to `V[x]`, then the flag to VF, the flag last, so that VF ends as the flag when `x = 0xF`
(R173; D24, log 20). -/
def State.setRegFlag (s : State) (x : Nibble) (result flag : Byte) : State := (s.setReg x result).setReg 0xF flag

/-- `V[k] <- bs[k]` for each `k` below the length of `bs`, the other registers kept (R195). -/
def State.loadRegs (s : State) (bs : List Byte) : State :=
  s.setV (Vector.ofFn fun k : Fin 16 => if h : k.val < bs.length then bs[k.val] else s.v[k])

/-- `V[0]` to `V[x]`, `x + 1` bytes in register order (R194). -/
def State.storedRegs (s : State) (x : Nibble) : List Byte := s.v.toList.take (x.toNat + 1)

/-! ### Program counter (R23, R24) -/

/-- `PC <- (PC + 2) mod 65536`: the default advance, and the extra 2 of a skip (R123, R148). -/
def State.advancePc (s : State) : State := s.setPc (s.pc + 2)

/-- Skip the next instruction if the condition holds (R148). -/
def State.skipIf (s : State) (c : Bool) : State := if c then s.advancePc else s

/-! ### Memory (R60 to R67) -/

/-- The byte that memory lists at `a`, if it lists one. -/
def Memory.lookup : Memory → Nat → Option Byte
  | [], _ => none
  | (k, b) :: m, a => if k = a then some b else Memory.lookup m a

/-- The byte at `a`: the listed one, else what `init` left there. -/
def Memory.read (c : Config) (m : Memory) (a : Nat) : Byte := (m.lookup a).getD (freshByte c a)

/-- The cells for address `a` holding `b`: none if `b` is what an unlisted address reads as. -/
def Memory.cell (c : Config) (a : Nat) (b : Byte) : Memory := if b = freshByte c a then [] else [(a, b)]

/-- `mem[a] <- b`, keeping the canonical form. -/
def Memory.write (c : Config) : Memory → Nat → Byte → Memory
  | [], a, b => Memory.cell c a b
  | (k, d) :: m, a, b =>
    if a < k then Memory.cell c a b ++ (k, d) :: m
    else if a = k then Memory.cell c a b ++ m
    else (k, d) :: Memory.write c m a b

/-- The bytes written one after another at ascending addresses from `a` on (R64, R69). -/
def Memory.writeList (c : Config) : Memory → Nat → List Byte → Memory
  | m, _, [] => m
  | m, a, b :: bs => Memory.writeList c (Memory.write c m a b) (a + 1) bs

/-- The byte at address `a` of the machine's memory. Meanings use it only on addresses that `rangeFault` has
passed, all of them at most 4095. -/
def State.byteAt (s : State) (a : Nat) : Byte := s.mem.read s.config a

/-- The bytes at `a`, `a + 1`, ..., in that order. -/
def State.bytesAt (s : State) (a n : Nat) : List Byte := (List.range n).map fun k => s.byteAt (a + k)

/-- The bytes stored at `a`, `a + 1`, ... -/
def State.storeBytes (s : State) (a : Nat) (bs : List Byte) : State := s.setMem (s.mem.writeList s.config a bs)

/-- The bounds check of an access to the `n` bytes at `a`, `a + 1`, ..., made before any of them: the lowest
address above 4095 among them, if there is one. `a` is an unbounded number (R63, R67; D12 and D13, log 18). -/
def rangeFault (a n : Nat) : Option Nat := if 0 < n ∧ 4095 < a + n - 1 then some (max a 4096) else none

/-! ### Display (R32) -/

/-- The pixel `fb[px, py]` in column `px` and row `py` (R32). -/
def Display.pixel (d : Display) (px : Fin 64) (py : Fin 32) : Bool := d[py].getLsbD px.val

/-! ### Errors (R276) -/

/-- The raising of an error, the one operation that every fault goes through (R276): the instruction stops, the
error is the step's result, nothing is saved, no mode or mask changes and no vector is consulted. There is no
return from it, because there is no handler inside the machine (R277). The state it leaves is the handler's own,
untouched; `cycle` answers it beside the error (R127). -/
def raise (f : Fault) : Answer := .fault f

/-- The rest of an instruction behind its bounds check: a `MemoryFault` with the lowest offending address and no
effect at all if one of the `n` bytes at `a` does not exist (R63, R67). -/
def guardRange (a n : Nat) (k : Answer) : Answer :=
  match rangeFault a n with
  | some bad => raise (.memoryFault bad)
  | none => k

/-! ### Call stack (R28, R29) -/

/-- `push`: nothing when 16 addresses are held, else the pointer goes up and the entry below it is written
(R29). -/
def State.push (s : State) (a : Word) : Option State :=
  if h : s.sp.val < 16 then some (s.setStack ⟨s.sp.val + 1, by omega⟩ (s.stack.set s.sp.val a h)) else none

/-- `pop`: nothing when the stack is empty, else the entry below the pointer, and the pointer goes down; the
entry keeps its value (R29). -/
def State.pop (s : State) : Option (Word × State) :=
  if h : 0 < s.sp.val then
    some (s.stack[s.sp.val - 1]'(by omega), s.setStack ⟨s.sp.val - 1, by omega⟩ s.stack)
  else none

/-! ### Fetch (R122) -/

/-- The bounds check of the fetch at `PC`: the lowest offending address if `PC` or `PC + 1` is above 4095, `PC + 1`
taken as an unbounded number (R122). -/
def State.fetchFault (s : State) : Option Nat := rangeFault s.pc.toNat 2

/-- The opcode at `PC`: `mem[PC] ‖ mem[PC + 1]` (R64, R122). -/
def State.fetchedOpcode (s : State) : Word := opcodeOfBytes (s.byteAt s.pc.toNat) (s.byteAt (s.pc.toNat + 1))

/-- The state whose next step fetches `op`: Running, `op` in the two bytes at `PC`, and `PC` moved to 0x200 only
where nothing can be fetched at `PC` (log 12). -/
def State.placeAtFetch (s : State) (op : Word) : State :=
  let s := s.setMode .running
  let s := if s.fetchFault.isNone then s else s.setPc 0x200
  s.storeBytes s.pc.toNat [opcodeHi op, opcodeLo op]

/-! ### Random draws (R255) -/

/-- The draw of this execution (R171, R255): the free value numbered by the counter. DESIGN CHOICE (log 1): the numbers
start at 0 in every new instance, so equally numbered draws of two instances (R258) are the same byte, which the spec
leaves open; a claim that compares two instances may not rest on it. -/
def State.nextRandom (s : State) : Byte := Config.randByte s.draws

/-- One draw used up, so that no later draw is this one (log 1). -/
def State.consumeDraw (s : State) : State := s.setDraws (s.draws + 1)

end Sys2Proof.Machine
end

