-- ==== Sys2Proof/Machine/Alu.lean ====
section
/-! DEFINITION. Register load, arithmetic, logic, shift and random (R160 to R173). Operands are read before any
write; a flag is written last (R173). -/

namespace Sys2Proof.Machine

/-- 6xkk, LD_VX_KK (R160). -/
def execLdVxKk (x : Nibble) (kk : Byte) (s : State) : Answer := .next (s.setReg x kk)

/-- 7xkk, ADD_VX_KK (R161): wraps modulo 256, no flag. -/
def execAddVxKk (x : Nibble) (kk : Byte) (s : State) : Answer := .next (s.setReg x (s.reg x + kk))

/-- 8xy0, LD_VX_VY (R162). -/
def execLdVxVy (x y : Nibble) (s : State) : Answer := .next (s.setReg x (s.reg y))

/-- 8xy1, OR (R163): no flag. -/
def execOrVxVy (x y : Nibble) (s : State) : Answer := .next (s.setReg x (s.reg x ||| s.reg y))

/-- 8xy2, AND (R164): no flag. -/
def execAndVxVy (x y : Nibble) (s : State) : Answer := .next (s.setReg x (s.reg x &&& s.reg y))

/-- 8xy3, XOR (R165): no flag. -/
def execXorVxVy (x y : Nibble) (s : State) : Answer := .next (s.setReg x (s.reg x ^^^ s.reg y))

/-- 8xy4, ADD_VX_VY (R166): VF is the carry. -/
def execAddVxVy (x y : Nibble) (s : State) : Answer :=
  .next (s.setRegFlag x (s.reg x + s.reg y) (carryFlag (s.reg x) (s.reg y)))

/-- 8xy5, SUB (R167): VF is "no borrow". -/
def execSubVxVy (x y : Nibble) (s : State) : Answer :=
  .next (s.setRegFlag x (s.reg x - s.reg y) (noBorrowFlag (s.reg x) (s.reg y)))

/-- 8xy6, SHR (R168): Vx is shifted in place; `y` is ignored. -/
def execShrVx (x _y : Nibble) (s : State) : Answer :=
  .next (s.setRegFlag x (s.reg x >>> 1) (shiftedOutRight (s.reg x)))

/-- 8xy7, SUBN (R169): VF is "no borrow" of `Vy - Vx`. -/
def execSubnVxVy (x y : Nibble) (s : State) : Answer :=
  .next (s.setRegFlag x (s.reg y - s.reg x) (noBorrowFlag (s.reg y) (s.reg x)))

/-- 8xyE, SHL (R170): Vx is shifted in place; `y` is ignored. -/
def execShlVx (x _y : Nibble) (s : State) : Answer :=
  .next (s.setRegFlag x (s.reg x <<< 1) (shiftedOutLeft (s.reg x)))

/-- Cxkk with the draw `r`: `V[x] <- r AND kk` (R171). -/
def State.loadMaskedRandom (s : State) (x : Nibble) (kk r : Byte) : State := s.setReg x (r &&& kk)

/-- Cxkk, RND (R171): a fresh free draw at each execution. -/
def execRnd (x : Nibble) (kk : Byte) (s : State) : Answer :=
  .next (s.consumeDraw.loadMaskedRandom x kk s.nextRandom)

end Sys2Proof.Machine
end

