-- ==== Sys2Proof/Machine/ControlTransfer.lean ====
section
/-! DEFINITION. Control transfer (R140 to R149). `PC` is already the instruction's address plus 2 (R123). -/

namespace Sys2Proof.Machine

/-- 00EE, RET (R140). -/
def execRet (s : State) : Answer :=
  match s.pop with
  | some (a, t) => .next (t.setPc a)
  | none => raise .stackUnderflow

/-- 1nnn, JP (R141). -/
def execJp (nnn : Addr12) (s : State) : Answer := .next (s.setPc (zextAddr nnn))

/-- 2nnn, CALL (R142): the pushed value is the advanced `PC`. -/
def execCall (nnn : Addr12) (s : State) : Answer :=
  match s.push s.pc with
  | some t => .next (t.setPc (zextAddr nnn))
  | none => raise .stackOverflow

/-- 3xkk, SE_VX_KK (R143). -/
def execSeVxKk (x : Nibble) (kk : Byte) (s : State) : Answer := .next (s.skipIf (s.reg x == kk))

/-- 4xkk, SNE_VX_KK (R144). -/
def execSneVxKk (x : Nibble) (kk : Byte) (s : State) : Answer := .next (s.skipIf (s.reg x != kk))

/-- 5xy0, SE_VX_VY (R145). -/
def execSeVxVy (x y : Nibble) (s : State) : Answer := .next (s.skipIf (s.reg x == s.reg y))

/-- 9xy0, SNE_VX_VY (R146). -/
def execSneVxVy (x y : Nibble) (s : State) : Answer := .next (s.skipIf (s.reg x != s.reg y))

/-- Bnnn, JP_V0 (R147): always V0, and the sum is not reduced to 12 bits. -/
def execJpV0 (nnn : Addr12) (s : State) : Answer := .next (s.setPc (zextAddr nnn + zextByte (s.reg 0x0)))

end Sys2Proof.Machine
end

