-- ==== Sys2Proof/Machine/Display.lean ====
section
/-! DEFINITION. Display instructions and the collision detector (R210 to R215). -/

namespace Sys2Proof.Machine

/-- The display with every pixel 0 (R210). -/
def clearDisplay : Display := Vector.replicate 32 0

/-- 00E0, CLS (R210). -/
def execCls (s : State) : Answer := .next (s.setFb clearDisplay)

/-- The pixels of one row that a sprite byte flips when its row starts at column `x0`: bit `7 - c` of the byte at
column `x0 + c` (R214; D15, log 15). A column above 63 falls off the row: the clip of R212 (D3, log 16). -/
def spriteRow (x0 : Nat) (b : Byte) : PixelRow := (b.reverse.zeroExtend 64) <<< x0

/-- One sprite byte XORed onto row `py`, and whether it met a pixel that was 1 (R211, R213). A row below the
display is not drawn and meets nothing (R212). -/
def drawRow (x0 py : Nat) (b : Byte) (d : Display) : Display × Bool :=
  if h : py < 32 then (d.set py (d[py] ^^^ spriteRow x0 b) h, (d[py] &&& spriteRow x0 b) != 0) else (d, false)

/-- The sprite bytes drawn on consecutive rows from `py` on, and whether any of them met a pixel that was 1
(R211, R213). -/
def drawRows (x0 : Nat) : Nat → List Byte → Display → Display × Bool
  | _, [], d => (d, false)
  | py, b :: bs, d =>
    let row := drawRow x0 py b d
    let rest := drawRows x0 (py + 1) bs row.1
    (rest.1, row.2 || rest.2)

/-- The sprite at `I`, `n` bytes, drawn at (`V[x] mod 64`, `V[y] mod 32`); positions are read before VF is
written (R211). -/
def State.drawSprite (s : State) (x y n : Nibble) : Display × Bool :=
  drawRows (startColumn (s.reg x)) (startRow (s.reg y)) (s.bytesAt s.i.toNat n.toNat) s.fb

/-- Dxyn, DRW (R211): all `n` bytes are checked before any pixel or VF is written, those of clipped rows too, and
`n = 0` checks nothing (R215; D14, log 16). VF is the collision of R211's pseudocode and R213 (log 23). -/
def execDrw (x y n : Nibble) (s : State) : Answer :=
  guardRange s.i.toNat n.toNat
    (.next ((s.setFb (s.drawSprite x y n).1).setReg 0xF (flagByte (s.drawSprite x y n).2)))

end Sys2Proof.Machine
end

