-- ==== Sys2Proof/Machine/IndexMemory.lean ====
section
/-! DEFINITION. Index register and memory instructions (R190 to R196). None changes a flag; only LD_I_NNN,
ADD_I_VX and LD_F_VX change `I`. -/

namespace Sys2Proof.Machine

/-- Annn, LD_I_NNN (R190). -/
def execLdINnn (nnn : Addr12) (s : State) : Answer := .next (s.setI (zextAddr nnn))

/-- Fx1E, ADD_I_VX (R191): modulo 65536, no flag, no bounds check. -/
def execAddIVx (x : Nibble) (s : State) : Answer := .next (s.setI (s.i + zextByte (s.reg x)))

/-- The address of the glyph of digit `d`: `FONT_BASE + FONT_GLYPH_BYTES * d` (R192). -/
def glyphAddress (c : Config) (d : Nibble) : Nat := c.fontBase + fontGlyphBytes * d.toNat

/-- Fx29, LD_F_VX (R192): the digit is the low four bits of Vx (D9, log 17). -/
def execLdFVx (x : Nibble) (s : State) : Answer :=
  .next (s.setI (BitVec.ofNat 16 (glyphAddress s.config (lowNibble (s.reg x)))))

/-- Fx33, LD_B_VX (R193): all three addresses are checked before any write. -/
def execLdBVx (x : Nibble) (s : State) : Answer :=
  guardRange s.i.toNat 3 (.next (s.storeBytes s.i.toNat (decimalDigits (s.reg x))))

/-- Fx55, LD_MEM_VX (R194): `x + 1` registers; `I` stays. -/
def execLdMemVx (x : Nibble) (s : State) : Answer :=
  guardRange s.i.toNat (x.toNat + 1) (.next (s.storeBytes s.i.toNat (s.storedRegs x)))

/-- Fx65, LD_VX_MEM (R195): `x + 1` registers; `I` stays. -/
def execLdVxMem (x : Nibble) (s : State) : Answer :=
  guardRange s.i.toNat (x.toNat + 1) (.next (s.loadRegs (s.bytesAt s.i.toNat (x.toNat + 1))))

end Sys2Proof.Machine
end

