-- ==== Sys2Proof/Machine/KeypadTimers.lean ====
section
/-! DEFINITION. Keypad and timer instructions, and the key wait (R230 to R238). -/

namespace Sys2Proof.Machine

/-- `keys[k] = 1` (R32). -/
def State.keyDown (s : State) (k : Nibble) : Bool := s.keys.getLsbD k.toNat

/-- Ex9E, SKP (R230): the key is the low four bits of Vx (R237; D8, log 17). -/
def execSkp (x : Nibble) (s : State) : Answer := .next (s.skipIf (s.keyDown (lowNibble (s.reg x))))

/-- ExA1, SKNP (R231). -/
def execSknp (x : Nibble) (s : State) : Answer := .next (s.skipIf (!s.keyDown (lowNibble (s.reg x))))

/-- Fx07, LD_VX_DT (R232). -/
def execLdVxDt (x : Nibble) (s : State) : Answer := .next (s.setReg x s.dt)

/-- Fx15, LD_DT_VX (R235). -/
def execLdDtVx (x : Nibble) (s : State) : Answer := .next (s.setDt (s.reg x))

/-- Fx18, LD_ST_VX (R236). -/
def execLdStVx (x : Nibble) (s : State) : Answer := .next (s.setSt (s.reg x))

/-- Fx0A, LD_VX_K (R233): the default advance is taken back and the wait begins from the key states of now; it
never completes in this step (D6, log 19). -/
def execLdVxK (x : Nibble) (s : State) : Answer :=
  .next ((s.setPc (s.pc - 2)).setMode (.waitingForKey x s.keys))

/-- The lowest-numbered key among those marked, if any is (R234; D7, log 19). -/
def lowestKey (marked : Keys) : Option Nibble :=
  ((List.range 16).find? fun k => marked.getLsbD k).map (BitVec.ofNat 4)

/-- The keys down now that were up at the last look (R234). -/
def State.newlyDown (s : State) (prev : Keys) : Keys := s.keys &&& ~~~prev

/-- One look of the waiting Fx0A (R234): it completes with the lowest newly pressed key, or remembers the present
key states and waits on. It fetches nothing and cannot fail. -/
def State.waitStep (s : State) (xw : Nibble) (prev : Keys) : State :=
  match lowestKey (s.newlyDown prev) with
  | some k => ((s.setReg xw (zextNibble k)).advancePc).setMode .running
  | none => s.setMode (.waitingForKey xw s.keys)

end Sys2Proof.Machine
end

