-- ==== Sys2Proof/Machine/Cycle.lean ====
section
/-! DEFINITION. The step cycle (R120 to R131): fetch, default advance, decode, execute, with the result of a step
and the state it leaves, errors included. -/

namespace Sys2Proof.Machine

/-- The result of one step (R126). -/
inductive StepResult where
  /-- An instruction was executed, or an Fx0A began, continued or completed. -/
  | ok
  /-- Unknown opcode under policy `continue`: reported, not fatal. -/
  | report (op : Word)
  /-- A fatal error. -/
  | fault (f : Fault)
  /-- The model has no meaning for the instruction. No instruction of the table gives it. -/
  | refused (r : Refusal)
  deriving DecidableEq, Repr

/-- What one step answers: its result, and the state it leaves, after an error too (R126, R127). -/
structure StepReturn where
  result : StepResult
  after : State
  deriving DecidableEq, Repr

/-- An unknown opcode, on the state whose `PC` has been advanced: by policy a report and a no-operation, or a fatal
error; the state is the same either way (R125). -/
def unknownOpcode (op : Word) (s : State) : StepReturn :=
  match s.config.unknownOpcodePolicy with
  | .continuing => ⟨.report op, s⟩
  | .halting => ⟨.fault (.unknownOpcode op), s⟩

/-- A handler run on the state whose `PC` has been advanced. An error leaves that state as it is (R127). -/
def runHandler (i : Instr) (s : State) : StepReturn :=
  match exec i s with
  | .next t => ⟨.ok, t⟩
  | .fault f => ⟨.fault f, s⟩
  | .refused r => ⟨.refused r, s⟩

/-- A fetched opcode, on the state whose `PC` has been advanced: decode and dispatch (R120, R124). -/
def runOpcode (op : Word) (s : State) : StepReturn :=
  match decode op with
  | some i => runHandler i s
  | none => unknownOpcode op s

/-- A step in mode Running (R120): the fetch, which on an error leaves everything unchanged (R122, R127), then the
default advance (R123), then the opcode. -/
def runningStep (s : State) : StepReturn :=
  match s.fetchFault with
  | some a => ⟨.fault (.memoryFault a), s⟩
  | none => runOpcode s.fetchedOpcode s.advancePc

/-- One `step` transaction, whole (R120): the checks come in the order of R131. -/
def cycle (s : State) : StepReturn :=
  match s.mode with
  | .waitingForKey xw prev => ⟨.ok, s.waitStep xw prev⟩
  | .running => runningStep s

/-- The outcome of a step in the host's terms: a run goes on after `Ok` and after a report, and ends in a fault
otherwise (R126, U9; log 6, log 7). -/
def StepReturn.outcome (r : StepReturn) : Answer :=
  match r.result with
  | .ok => .next r.after
  | .report _ => .next r.after
  | .fault f => .fault f
  | .refused c => .refused c

end Sys2Proof.Machine
end

