-- ==== Sys2Proof/Machine/Step.lean ====
section
/-! DEFINITION. One step of the machine, and the placing of an instruction where it fetches. -/

namespace Sys2Proof.Machine

/-- One `step` (R120): fetch, decode, execute, or one look of a key wait. -/
def step (s : State) : Host.Outcome State Fault Refusal := (cycle s).outcome

/-- `s` with the opcode-table word `w` of `nbits` bits stored where `step` fetches its next instruction, big end
first (R64). It stands for the load of a program from outside the machine (R251, log 12). -/
def State.withFetchWord (s : State) (nbits w : Nat) : State := s.placeAtFetch (BitVec.ofNat 16 (w % 2 ^ nbits))

end Sys2Proof.Machine
end

