-- ==== Sys2Proof/WellFormed.lean ====
section
/-! DEFINITION. Well-formed terms. The field types of Instr are the widths of R91, so no term of Instr has an
operand out of range; the checks that remain are on a configuration and on a program image. -/

namespace Sys2Proof

/-- Every term of Instr is well formed: each register index is 4 bits and names a register (R20), `kk` is 8
bits, `nnn` 12 bits and `n` 4 bits (R91, R93), all by their types, and R95 accepts every value of every field. -/
abbrev Instr.wellFormed (_ : Instr) : Prop := True

/-- MAX_PROGRAM of R6: the most bytes `load_program` accepts. -/
def maxProgram : Nat := 4096 - 0x200

/-- A program image that `load_program` accepts: at most 3584 bytes (R251). -/
abbrev programFits (bytes : List Byte) : Prop := bytes.length ≤ maxProgram

end Sys2Proof
end

