-- ==== Sys2Proof/Machine/HostOperations.lean ====
section
/-! DEFINITION. The operations offered to the surroundings besides `step` (R250 to R258, R282, R310), and all seven
as transactions (R7). -/

namespace Sys2Proof.Machine

/-- `init` on an existing instance (R310; D18, log 5): the reset state of its own configuration, whatever the state
before. The counter of draws goes on, so that no draw comes twice (log 1). -/
def State.initialised (s : State) : State := (State.resetWith s.config).setDraws s.draws

/-- `load_program` (R251): the bytes verbatim from 0x200 on, or RomTooLarge and no byte copied. -/
def loadProgram (bytes : List Byte) (s : State) : Except Fault State :=
  if programFits bytes then .ok (s.storeBytes 0x200 bytes) else .error .romTooLarge

/-- One timer counted down, floored at 0 (R282). -/
def countDown (b : Byte) : Byte := if 0 < b.toNat then b - 1 else b

/-- `tick_timers` (R282): the two timers are independent. -/
def State.tickTimers (s : State) : State := (s.setDt (countDown s.dt)).setSt (countDown s.st)

/-- Key `k` of the key states set to `pressed` (R252). -/
def writeKey (keys : Keys) (k : Nibble) (pressed : Bool) : Keys :=
  if pressed then keys ||| BitVec.twoPow 16 k.toNat else keys &&& ~~~BitVec.twoPow 16 k.toNat

/-- `set_key_state` (R252): one key, nothing else; an index above 15 cannot be expressed (D25, log 21). -/
def State.setKeyState (s : State) (k : Nibble) (pressed : Bool) : State := s.setKeys (writeKey s.keys k pressed)

/-- `display_snapshot` (R253): the pixels as they are, read by `Display.pixel`. -/
def State.displaySnapshot (s : State) : Display := s.fb

/-- `sound_active` (R254): true exactly when `ST > 0`. -/
def State.soundActive (s : State) : Bool := decide (0 < s.st.toNat)

/-- The seven operations of R250. -/
inductive Transaction where
  | init
  | loadProgram (bytes : List Byte)
  | step
  | tickTimers
  | setKeyState (k : Nibble) (pressed : Bool)
  | displaySnapshot
  | soundActive
  deriving DecidableEq, Repr

/-- What an operation answers its caller (R126, R251, R253, R254). -/
inductive Response where
  /-- Nothing, or the `Ok` of `load_program`. -/
  | done
  /-- The error of `load_program`. -/
  | loadFailed (f : Fault)
  /-- The result of a `step`. -/
  | stepped (r : StepResult)
  | snapshot (d : Display)
  | sound (b : Bool)
  deriving DecidableEq, Repr

/-- `load_program` as a transaction: a failed load leaves everything as it was (R251, R275). -/
def loadTransaction (bytes : List Byte) (s : State) : Response × State :=
  match loadProgram bytes s with
  | .ok t => (.done, t)
  | .error f => (.loadFailed f, s)

/-- One transaction, whole: its answer and the state it leaves (R7, R250). -/
def transact (op : Transaction) (s : State) : Response × State :=
  match op with
  | .init => (.done, s.initialised)
  | .loadProgram bytes => loadTransaction bytes s
  | .step => (.stepped (cycle s).result, (cycle s).after)
  | .tickTimers => (.done, s.tickTimers)
  | .setKeyState k pressed => (.done, s.setKeyState k pressed)
  | .displaySnapshot => (.snapshot s.displaySnapshot, s)
  | .soundActive => (.sound s.soundActive, s)

/-- The state after a list of transactions, in the order the surroundings chose (R7, R256). -/
def transactAll : List Transaction → State → State
  | [], s => s
  | op :: ops, s => transactAll ops (transact op s).2

end Sys2Proof.Machine
end

