-- ==== Sys2Proof/Safety.lean ====
section
/-! DEFINITION. The terms claims are stated in: a safe run, the machine's invariant, and what an instruction leaves
unchanged. -/

namespace Sys2Proof.Machine

/-! ### Runs -/

/-- A state from which no number of steps meets a fault or a refusal (U9: a fault ends a run in error). -/
def Safe (s : State) : Prop := ∀ k, ∃ t, Host.Core.run Sys2Proof.core k s = .next t

/-! ### The invariant -/

/-- The executor is waiting for a key (R33). -/
def State.isWaiting (s : State) : Bool :=
  match s.mode with
  | .running => false
  | .waitingForKey _ _ => true

/-- Every return address now held is at most 4096, the `PC` inside the CALL that pushed it (R36). -/
abbrev State.stackBounded (s : State) : Prop := ∀ k : Fin 16, k.val < s.sp.val → s.stack[k].toNat ≤ 4096

/-- `PC` is at most 0x10FE (R25), and at most 4094, a fetchable address, while a key wait lasts (R23). -/
abbrev State.pcBounded (s : State) : Prop :=
  s.pc.toNat ≤ 0x10FE ∧ (s.isWaiting = true → s.pc.toNat ≤ 4094)

/-- What every state reachable from `init` satisfies (R6, R25, R36, R60): the configuration keeps R6's constraint,
memory has its canonical form, return addresses and `PC` are bounded. -/
abbrev State.Inv (s : State) : Prop :=
  s.config.wellFormed ∧ s.mem.wf s.config ∧ s.stackBounded ∧ s.pcBounded

/-! ### Frames -/

/-- The pieces of state an instruction can write, besides `PC` and the general registers (10_state.md, section 1). -/
inductive Part where
  | index
  | stack
  | delayTimer
  | soundTimer
  | memory
  | display
  | mode
  | draws
  deriving DecidableEq, Repr

/-- The part is the same in both states; memory byte by byte, the display pixel by pixel. -/
def SamePart (s t : State) : Part → Prop
  | .index => t.i = s.i
  | .stack => t.sp = s.sp ∧ ∀ k : Fin 16, t.stack[k] = s.stack[k]
  | .delayTimer => t.dt = s.dt
  | .soundTimer => t.st = s.st
  | .memory => ∀ a, t.byteAt a = s.byteAt a
  | .display => ∀ px py, t.fb.pixel px py = s.fb.pixel px py
  | .mode => t.mode = s.mode
  | .draws => t.draws = s.draws

/-- From `s` to `t` nothing has changed but the listed parts, the registers in `regs`, and perhaps `PC`: every other
part and register is the same, the key states and the configuration are the same. -/
def Frame (parts : List Part) (regs : Nibble → Prop) (s t : State) : Prop :=
  (∀ p, p ∉ parts → SamePart s t p) ∧ (∀ r, ¬ regs r → t.reg r = s.reg r) ∧ t.keys = s.keys ∧ t.config = s.config

/-- No general register. -/
def noReg (_ : Nibble) : Prop := False

/-- An answer with its next state, if it has one, changed by `f`. -/
def mapNext (f : State → State) : Answer → Answer
  | .next t => .next (f t)
  | .fault e => .fault e
  | .refused r => .refused r

end Sys2Proof.Machine
end

