-- ==== Sys2Proof/Certificates/Slice0/Obligations.lean ====
section
/-! DEFINITION. The statements for the provers, each formalising rules of spec/, with the shapes they share. "log <n>"
is notes/assumptions/<n>.md. -/

open Sys2Proof Sys2Proof.Machine

namespace Sys2Proof.Machine

/-! ### Shapes of statements -/

/-- The instruction completes: it writes the number `n` to register `x` and nothing else, and `PC` stays where the
default advance put it. -/
def WritesReg (i : Instr) (s : State) (x : Nibble) (n : Nat) : Prop :=
  ∃ t, exec i s = .next t ∧ (t.reg x).toNat = n ∧ t.pc = s.pc ∧ Frame [] (· = x) s t

/-- The instruction completes: each bit of register `x` becomes `f` of the old bits of `x` and `y`, nothing else
changes, VF included where it is not `x`. -/
def WritesRegBits (i : Instr) (s : State) (x y : Nibble) (f : Bool → Bool → Bool) : Prop :=
  ∃ t, exec i s = .next t ∧
    (∀ k, k < 8 → (t.reg x).getLsbD k = f ((s.reg x).getLsbD k) ((s.reg y).getLsbD k)) ∧
    t.pc = s.pc ∧ Frame [] (· = x) s t

/-- The instruction completes: register `x` becomes `result` unless it is VF, VF becomes `flag` in any case, and
nothing else changes. -/
def WritesRegAndFlag (i : Instr) (s : State) (x : Nibble) (result flag : Nat) : Prop :=
  ∃ t, exec i s = .next t ∧ (x ≠ 0xF → (t.reg x).toNat = result) ∧ (t.reg 0xF).toNat = flag ∧
    t.pc = s.pc ∧ Frame [] (fun r => r = x ∨ r = 0xF) s t

/-- The instruction completes: `PC` gets 2 more, modulo 65536, if the condition holds, and stays otherwise; nothing
else changes. -/
def SkipsWhen (i : Instr) (s : State) (c : Prop) : Prop :=
  ∃ t, exec i s = .next t ∧ (c → t.pc.toNat = (s.pc.toNat + 2) % 65536) ∧ (¬ c → t.pc = s.pc) ∧
    Frame [] noReg s t

/-- The instruction stops with the error, and a step that reaches it leaves its state as the handler found it. -/
def StopsWith (i : Instr) (s : State) (f : Fault) : Prop :=
  exec i s = .fault f ∧ runHandler i s = ⟨.fault f, s⟩

/-- Some sprite bit 1 of `DRW x y n` falls on the pixel: bit `7 - c` of the byte at `I + r`, at column
`V[x] mod 64 + c` and row `V[y] mod 32 + r`. -/
def SpriteHits (s : State) (x y n : Nibble) (px : Fin 64) (py : Fin 32) : Prop :=
  ∃ r c, r < n.toNat ∧ c < 8 ∧ px.val = (s.reg x).toNat % 64 + c ∧ py.val = (s.reg y).toNat % 32 + r ∧
    (s.byteAt (s.i.toNat + r)).getLsbD (7 - c) = true

/-- Key `k` is down now and was up in `prev`. -/
def NewlyDown (s : State) (prev : Keys) (k : Nibble) : Prop :=
  s.keys.getLsbD k.toNat = true ∧ prev.getLsbD k.toNat = false

/-- The instructions that may write a part of the state: the column "written by" of 10_state.md, section 1. -/
def MayWrite : Part → Instr → Prop
  | .index, i => (∃ n, i = .ldINnn n) ∨ ∃ x, i = .addIVx x ∨ i = .ldFVx x
  | .stack, i => i = .ret ∨ ∃ n, i = .call n
  | .delayTimer, i => ∃ x, i = .ldDtVx x
  | .soundTimer, i => ∃ x, i = .ldStVx x
  | .memory, i => ∃ x, i = .ldBVx x ∨ i = .ldMemVx x
  | .display, i => i = .cls ∨ ∃ x y n, i = .drw x y n
  | .mode, i => ∃ x, i = .ldVxK x
  | .draws, i => ∃ x kk, i = .rnd x kk

/-- The six flag instructions of R21. -/
def IsFlagInstr (i : Instr) : Prop :=
  (∃ x y, i = .addVxVy x y ∨ i = .subVxVy x y ∨ i = .shrVx x y ∨ i = .subnVxVy x y ∨ i = .shlVx x y) ∨
    ∃ x y n, i = .drw x y n

/-- The instructions that have register `r` as their destination `x`, or among the registers they load. -/
def HasDestination (r : Nibble) (i : Instr) : Prop :=
  (∃ kk, i = .ldVxKk r kk ∨ i = .addVxKk r kk ∨ i = .rnd r kk) ∨
  (∃ y, i = .ldVxVy r y ∨ i = .orVxVy r y ∨ i = .andVxVy r y ∨ i = .xorVxVy r y) ∨
  (∃ y, i = .addVxVy r y ∨ i = .subVxVy r y ∨ i = .shrVx r y ∨ i = .subnVxVy r y ∨ i = .shlVx r y) ∨
  i = .ldVxDt r ∨ ∃ x, r.toNat ≤ x.toNat ∧ i = .ldVxMem x

/-- The instructions that change `PC` after the default advance: jumps, CALL, RET, skips, and LD_VX_K, which takes the
advance back. -/
def MayMovePc (i : Instr) : Prop :=
  i = .ret ∨ (∃ n, i = .jp n ∨ i = .call n ∨ i = .jpV0 n) ∨ (∃ x kk, i = .seVxKk x kk ∨ i = .sneVxKk x kk) ∨
  (∃ x y, i = .seVxVy x y ∨ i = .sneVxVy x y) ∨ ∃ x, i = .skp x ∨ i = .sknp x ∨ i = .ldVxK x

/-- The instructions that store to memory. -/
def IsStore (i : Instr) : Prop := ∃ x, i = .ldBVx x ∨ i = .ldMemVx x

/-- The store `i` puts byte `b` at address `a`: register `k` at `I + k` (LD_MEM_VX), or a decimal digit (LD_B_VX). -/
def StoresAt (i : Instr) (s : State) (a : Nat) (b : Byte) : Prop :=
  (∃ x k : Nibble, i = .ldMemVx x ∧ k.toNat ≤ x.toNat ∧ a = s.i.toNat + k.toNat ∧ b = s.reg k) ∨
  ∃ x, i = .ldBVx x ∧
    ((a = s.i.toNat ∧ b.toNat = (s.reg x).toNat / 100) ∨
     (a = s.i.toNat + 1 ∧ b.toNat = (s.reg x).toNat / 10 % 10) ∨
     (a = s.i.toNat + 2 ∧ b.toNat = (s.reg x).toNat % 10))

/-- After the store `i`, address `a` is to hold `b`: the byte stored there, or, where none is stored, the old one. -/
def HoldsAfterStore (i : Instr) (s : State) (a : Nat) (b : Byte) : Prop :=
  StoresAt i s a b ∨ ((∀ c, ¬ StoresAt i s a c) ∧ b = s.byteAt a)

/-- The bytes of R311's table, each glyph read as one number, its row 0 first. -/
def glyphsOfR311 : Vector (BitVec 40) 16 :=
  #v[0xF0909090F0, 0x2060202070, 0xF010F080F0, 0xF010F010F0, 0x9090F01010, 0xF080F010F0, 0xF080F090F0, 0xF010204040,
     0xF090F090F0, 0xF090F010F0, 0xF090F09090, 0xE090E090E0, 0xF0808080F0, 0xE0909090E0, 0xF080F080F0, 0xF080F08080]

/-- Every value that `init` leaves (the table of 10_state.md, section 11). -/
def AsAfterInit (t : State) : Prop :=
  (∀ r, t.reg r = 0) ∧ t.i = 0 ∧ t.pc = 0x200 ∧ t.sp = 0 ∧ (∀ k : Fin 16, t.stack[k] = 0) ∧ t.dt = 0 ∧ t.st = 0 ∧
  (∀ a, a < t.config.fontBase ∨ t.config.fontBase + 80 ≤ a → t.byteAt a = 0) ∧
  (∀ k : Fin 80, t.byteAt (t.config.fontBase + k.val) = t.config.font[k]) ∧
  (∀ px py, t.fb.pixel px py = false) ∧ t.keys = 0 ∧ t.mode = .running

end Sys2Proof.Machine

/-! ### Encoding -/

/-- Decoding the opcode of an instruction gives it back, every operand at every value (30_encoding.md, sections 3
and 6; R100 is derived by the spec). -/
def Obligations.DecodeOfEncodeIsTheInstruction : Prop := ∀ i : Instr, decode (encode i) = some i

/-- An opcode that decodes to an instruction is that instruction's encoding, so each instruction has one opcode
(30_encoding.md, sections 3 and 6). -/
def Obligations.EncodeOfDecodeIsTheOpcode : Prop := ∀ op i, decode op = some i → encode i = op

/-- The decoder agrees with the match and mask columns of the opcode map: a decoded opcode satisfies its
instruction's row, an unknown one satisfies none, and no opcode satisfies two rows (30_encoding.md, sections 3, 4). -/
def Obligations.DecoderAgreesWithOpcodeTable : Prop :=
  (∀ op i, decode op = some i → i.row ∈ opcodeTable ∧ i.row.accepts op) ∧
  (∀ op, decode op = none ↔ ∀ r ∈ opcodeTable, ¬ r.accepts op) ∧
  (∀ op, ∀ r ∈ opcodeTable, ∀ q ∈ opcodeTable, r.accepts op → q.accepts op → r = q)

/-- Opcodes of the spec's own examples and programs decode to the instruction they stand for (95_test_vectors.md,
parts 1, 2 and 4). -/
def Obligations.WorkedOpcodesDecode : Prop :=
  decode 0x60AB = some (.ldVxKk 0x0 0xAB) ∧ decode 0x8104 = some (.addVxVy 0x1 0x0) ∧
  decode 0x00EE = some .ret ∧ decode 0x220A = some (.call 0x20A) ∧ decode 0xA300 = some (.ldINnn 0x300) ∧
  decode 0xF265 = some (.ldVxMem 0x2) ∧ decode 0xD013 = some (.drw 0x0 0x1 0x3) ∧
  decode 0xE19E = some (.skp 0x1) ∧ decode 0x00DF = none ∧ decode 0x8128 = none

/-! ### The step cycle -/

/-- In mode Running, when the two bytes at `PC` decode to an instruction, a step is that instruction's meaning on the
state whose `PC` has been advanced by 2 (40_step_cycle.md, sections 1, 3 and 4). -/
def Obligations.StepRunsTheDecodedInstruction : Prop :=
  ∀ (s : State) (i : Instr), s.mode = .running → s.pc.toNat ≤ 4094 →
    decode (opcodeOfBytes (s.byteAt s.pc.toNat) (s.byteAt (s.pc.toNat + 1))) = some i →
    step s = exec i (s.setPc (s.pc + 2))

/-- R122: the opcode is the two bytes at `PC` and `PC + 1`, big end first; with `PC > 4094` the step faults with the
lowest offending address and nothing is changed, `PC` included. -/
def Obligations.FetchReadsTwoBytesOrFaults : Prop :=
  ∀ s : State, s.mode = .running →
    (s.pc.toNat ≤ 4094 → s.fetchFault = none ∧
      s.fetchedOpcode.toNat = (s.byteAt s.pc.toNat).toNat * 256 + (s.byteAt (s.pc.toNat + 1)).toNat) ∧
    (4094 < s.pc.toNat →
      step s = .fault (.memoryFault (if s.pc.toNat = 4095 then 4096 else s.pc.toNat)) ∧ (cycle s).after = s)

/-- An unknown opcode changes nothing but `PC`, by 2; under policy `continue` the step reports it and goes on, under
`halt` the step is a fatal error (40_step_cycle.md, section 5). That a report is a next state of `step` is the model's
reading, DEDUCED (log 7). -/
def Obligations.UnknownOpcodeFollowsThePolicy : Prop :=
  ∀ s : State, s.mode = .running → s.pc.toNat ≤ 4094 → decode s.fetchedOpcode = none →
    (cycle s).after.pc.toNat = s.pc.toNat + 2 ∧ Frame [] noReg s (cycle s).after ∧
    (s.config.unknownOpcodePolicy = .continuing →
      (cycle s).result = .report s.fetchedOpcode ∧ step s = .next (cycle s).after) ∧
    (s.config.unknownOpcodePolicy = .halting →
      (cycle s).result = .fault (.unknownOpcode s.fetchedOpcode) ∧
      step s = .fault (.unknownOpcode s.fetchedOpcode))

/-- Errors are precise: a faulting step leaves the state as it was, but for the advance of `PC` when the fault came
after the fetch (40_step_cycle.md, section 7, decision D13; log 18). -/
def Obligations.FaultsArePrecise : Prop :=
  ∀ (s : State) (f : Fault), (cycle s).result = .fault f →
    s.mode = .running ∧
    ((4094 < s.pc.toNat ∧ (cycle s).after = s) ∨
     (s.pc.toNat ≤ 4094 ∧ (cycle s).after = s.setPc (s.pc + 2)))

/-- A handler raises only its own error, and only in the condition for it: CALL only StackOverflow with `SP = 16`, RET
only StackUnderflow with `SP = 0`, DRW, LD_B_VX, LD_MEM_VX and LD_VX_MEM only MemoryFault, when one of their bytes is
above 4095 (60_exceptions.md, section 4; R278 is derived by the spec). The check before any access is decision D13 and
the reported address D2 of the spec (log 18), the bytes of DRW that it covers D14 (log 16). -/
def Obligations.HandlersRaiseOnlyTheirOwnError : Prop :=
  ∀ (i : Instr) (s : State) (f : Fault), exec i s = .fault f →
    (f = .stackOverflow ∧ s.sp.val = 16 ∧ ∃ n, i = .call n) ∨
    (f = .stackUnderflow ∧ s.sp.val = 0 ∧ i = .ret) ∨
    (f = .memoryFault (max s.i.toNat 4096) ∧
      ((∃ x y n, i = .drw x y n ∧ n ≠ 0 ∧ 4096 < s.i.toNat + n.toNat) ∨
       ∃ x, (i = .ldBVx x ∧ 4095 < s.i.toNat + 2) ∨
         ((i = .ldMemVx x ∨ i = .ldVxMem x) ∧ 4095 < s.i.toNat + x.toNat)))

/-- Nothing that could be executed is refused: every step goes on or ends in one of the spec's own errors, never in
RomTooLarge, which is the loader's (40_step_cycle.md, section 6; 60_exceptions.md, section 1). -/
def Obligations.EveryStepGoesOnOrFaults : Prop :=
  ∀ s : State, (∃ t, step s = .next t) ∨ ∃ f, step s = .fault f ∧ f ≠ .romTooLarge

/-- Every step keeps the machine's invariant: R6's constraint, canonical memory, return addresses at most 4096, `PC`
at most 0x10FE and fetchable while a key wait lasts (10_state.md, sections 4 and 12; derived by the spec). -/
def Obligations.StepKeepsTheInvariant : Prop := ∀ s t : State, s.Inv → step s = .next t → t.Inv

/-- The reset state meets the invariant, and so does the reset state of every configuration that keeps R6's
constraint. -/
def Obligations.ResetMeetsTheInvariant : Prop :=
  State.reset.Inv ∧ ∀ c : Config, c.wellFormed → (State.resetWith c).Inv

/-- Every transaction keeps the invariant, a step that faults included, in whatever order the surroundings choose
them (00_scope.md, section 5; 10_state.md, section 12). -/
def Obligations.EveryRunOfTransactionsKeepsTheInvariant : Prop :=
  ∀ (ops : List Transaction) (s : State), s.Inv → (transactAll ops s).Inv

/-- A jump to its own address changes no state, so it runs for ever without an error (40_step_cycle.md, section 8;
41_control_transfer.md, section 2). -/
def Obligations.SelfJumpChangesNothing : Prop :=
  ∀ s : State, s.mode = .running → s.pc.toNat ≤ 4094 →
    s.fetchedOpcode = encode (.jp (s.pc.setWidth 12)) → step s = .next s ∧ Safe s

/-- A store is seen by the very next fetch: after LD_MEM_VX or LD_B_VX, whichever of the two bytes at `PC` it stored, at
whatever offset, the next step fetches them as they then stand and runs the instruction they spell (20_memory.md,
section 8; R71 is derived by the spec). Canonical memory is the premise. -/
def Obligations.StoreIsSeenByTheNextFetch : Prop :=
  ∀ (s t : State) (j i : Instr) (hi lo : Byte), s.mem.wf s.config → s.mode = .running → IsStore j →
    exec j s = .next t → t.pc.toNat ≤ 4094 →
    HoldsAfterStore j s t.pc.toNat hi → HoldsAfterStore j s (t.pc.toNat + 1) lo →
    t.fetchedOpcode = opcodeOfBytes hi lo ∧
    (decode (opcodeOfBytes hi lo) = some i → step t = exec i (t.setPc (t.pc + 2)))

/-! ### Who writes and who reads what -/

/-- Each piece of state is written only by the instructions named for it: a register by those that have it as their
destination and VF also by the flag instructions, `PC`, beyond the default advance, by the control transfers and
LD_VX_K, each other part by its column "written by", the key states and the configuration by none (10_state.md,
section 1). The counter of draws is the model's own (log 1). -/
def Obligations.EachPartIsWrittenOnlyByItsInstructions : Prop :=
  ∀ (i : Instr) (s t : State), exec i s = .next t →
    (∀ r, ¬ HasDestination r i → ¬ (r = 0xF ∧ IsFlagInstr i) → t.reg r = s.reg r) ∧
    (¬ MayMovePc i → t.pc = s.pc) ∧
    (∀ p, ¬ MayWrite p i → SamePart s t p) ∧ t.keys = s.keys ∧ t.config = s.config

/-- No step writes the key states or the configuration, and none counts a timer down: a step that changes `DT` or `ST`
runs LD_DT_VX or LD_ST_VX (10_state.md, section 8; 40_step_cycle.md, section 1). -/
def Obligations.StepNeverCountsTimersNorWritesKeys : Prop :=
  ∀ s t : State, step s = .next t →
    t.keys = s.keys ∧ t.config = s.config ∧
    (t.dt ≠ s.dt → ∃ x, decode s.fetchedOpcode = some (.ldDtVx x)) ∧
    (t.st ≠ s.st → ∃ x, decode s.fetchedOpcode = some (.ldStVx x))

/-- VF is written as a side effect by the six flag instructions alone: any other instruction that changes it has it as
its destination (10_state.md, section 2). -/
def Obligations.OnlyFlagInstructionsWriteVFAsASideEffect : Prop :=
  ∀ (i : Instr) (s t : State), exec i s = .next t → t.reg 0xF ≠ s.reg 0xF → IsFlagInstr i ∨ HasDestination 0xF i

/-- No instruction reads `ST`: run from two states that differ in `ST` alone, every instruction does the same, and the
two results differ in `ST` alone, or not at all after LD_ST_VX (10_state.md, section 8). Both runs are given the same
random byte, an input of the step (log 1). -/
def Obligations.NoInstructionReadsTheSoundTimer : Prop :=
  ∀ (i : Instr) (s : State) (b : Byte),
    ((∀ x, i ≠ .ldStVx x) → exec i (s.setSt b) = mapNext (fun t => t.setSt b) (exec i s)) ∧
    ((∃ x, i = .ldStVx x) → exec i (s.setSt b) = exec i s)

/-- Only SKP, SKNP and the key wait read the key states: any other instruction does the same whatever keys are down,
given the same random byte, an input of the step (40_step_cycle.md, section 1; log 1). -/
def Obligations.OnlyKeyInstructionsReadTheKeys : Prop :=
  ∀ (i : Instr) (s : State) (k : Keys), (∀ x, i ≠ .skp x ∧ i ≠ .sknp x ∧ i ≠ .ldVxK x) →
    exec i (s.setKeys k) = mapNext (fun t => t.setKeys k) (exec i s)

/-! ### Control transfer -/

/-- R141: JP completes, `PC` becomes `nnn`, whatever it was, and nothing else changes. -/
def Obligations.JumpSetsPcToTheAddress : Prop :=
  ∀ (nnn : Addr12) (s : State),
    ∃ t, exec (.jp nnn) s = .next t ∧ t.pc.toNat = nnn.toNat ∧ Frame [] noReg s t

/-- R147: JP_V0 completes, `PC` becomes `nnn + V0`, not reduced to 12 bits, and nothing else changes. -/
def Obligations.IndexedJumpAddsV0 : Prop :=
  ∀ (nnn : Addr12) (s : State),
    ∃ t, exec (.jpV0 nnn) s = .next t ∧ t.pc.toNat = nnn.toNat + (s.reg 0x0).toNat ∧ Frame [] noReg s t

/-- With `SP < 16`, CALL completes: `SP` goes up by one, the new top entry is the advanced `PC`, the other entries stay,
`PC` becomes `nnn`, and nothing else changes. With `SP = 16` it is StackOverflow and nothing is written
(41_control_transfer.md, section 2). That the error leaves the whole state is decision D13 of the spec (log 18), the
number of the entry D16 (log 13). -/
def Obligations.CallPushesTheReturnAddress : Prop :=
  ∀ (nnn : Addr12) (s : State),
    (∀ h : s.sp.val < 16, ∃ t, exec (.call nnn) s = .next t ∧ t.sp.val = s.sp.val + 1 ∧
      t.stack[s.sp.val] = s.pc ∧ (∀ k : Fin 16, k.val ≠ s.sp.val → t.stack[k] = s.stack[k]) ∧
      t.pc.toNat = nnn.toNat ∧ Frame [.stack] noReg s t) ∧
    (s.sp.val = 16 → StopsWith (.call nnn) s .stackOverflow)

/-- With `SP > 0`, RET completes: `PC` becomes the top entry, `SP` goes down by one, the entries keep their values, and
nothing else changes. With `SP = 0` it is StackUnderflow, and the state stays (41_control_transfer.md, section 2;
10_state.md, section 7). That the error leaves the whole state is decision D13 of the spec (log 18), the number of the
entry D16, and that a popped entry keeps its value log 13. -/
def Obligations.ReturnPopsIntoPc : Prop :=
  ∀ s : State,
    (∀ h : 0 < s.sp.val, ∃ t, exec .ret s = .next t ∧ t.pc = s.stack[s.sp.val - 1]'(by omega) ∧
      t.sp.val = s.sp.val - 1 ∧ (∀ k : Fin 16, t.stack[k] = s.stack[k]) ∧ Frame [.stack] noReg s t) ∧
    (s.sp.val = 0 → StopsWith .ret s .stackUnderflow)

/-- A return undoes a call: from any state that has the stack the call left, RET restores `PC` to the address after
the call and `SP` to what it was before (95_test_vectors.md, part 1, property 5; 41_control_transfer.md, section 2). -/
def Obligations.ReturnUndoesCall : Prop :=
  ∀ (nnn : Addr12) (s t t' : State), exec (.call nnn) s = .next t → t'.sp = t.sp → t'.stack = t.stack →
    ∃ u, exec .ret t' = .next u ∧ u.pc = s.pc ∧ u.sp = s.sp

/-- R143 to R146: the four skips on registers complete and skip exactly when their comparison holds. -/
def Obligations.RegisterSkipsTestTheirCondition : Prop :=
  ∀ (x y : Nibble) (kk : Byte) (s : State),
    SkipsWhen (.seVxKk x kk) s (s.reg x = kk) ∧ SkipsWhen (.sneVxKk x kk) s (s.reg x ≠ kk) ∧
    SkipsWhen (.seVxVy x y) s (s.reg x = s.reg y) ∧ SkipsWhen (.sneVxVy x y) s (s.reg x ≠ s.reg y)

/-- SKP and SKNP complete and skip exactly when key `V[x] mod 16` is down, or is not. That a number above 15 names the
key of its low four bits is decision D8 of the spec, its own choice (45_keypad_timers.md, sections 1, 2; log 17). -/
def Obligations.KeySkipsTestTheLowFourBits : Prop :=
  ∀ (x : Nibble) (s : State),
    SkipsWhen (.skp x) s (s.keys.getLsbD ((s.reg x).toNat % 16) = true) ∧
    SkipsWhen (.sknp x) s (s.keys.getLsbD ((s.reg x).toNat % 16) = false)

/-! ### Register load, arithmetic, logic, shift, random -/

/-- R160 to R162: LD_VX_KK, ADD_VX_KK and LD_VX_VY complete; the sum wraps modulo 256 and no flag is written. -/
def Obligations.RegisterLoadsAndAddImmediate : Prop :=
  ∀ (x y : Nibble) (kk : Byte) (s : State),
    WritesReg (.ldVxKk x kk) s x kk.toNat ∧
    WritesReg (.addVxKk x kk) s x (((s.reg x).toNat + kk.toNat) % 256) ∧
    WritesReg (.ldVxVy x y) s x (s.reg y).toNat

/-- OR, AND and XOR complete bit by bit, and VF is not written as a flag. That the document's silence on a flag means
no effect is decision D23 of the spec (42_alu.md, section 2; log 20). -/
def Obligations.LogicWorksBitByBit : Prop :=
  ∀ (x y : Nibble) (s : State),
    WritesRegBits (.orVxVy x y) s x y or ∧ WritesRegBits (.andVxVy x y) s x y and ∧
    WritesRegBits (.xorVxVy x y) s x y xor

/-- R166: ADD_VX_VY completes with the sum modulo 256, and VF is 1 exactly when the unwrapped sum exceeds 255; with
`x = 0xF` VF ends as the carry. -/
def Obligations.AddSetsCarry : Prop :=
  ∀ (x y : Nibble) (s : State),
    WritesRegAndFlag (.addVxVy x y) s x (((s.reg x).toNat + (s.reg y).toNat) % 256)
      (if 255 < (s.reg x).toNat + (s.reg y).toNat then 1 else 0)

/-- R167 and R169: SUB and SUBN complete with the difference modulo 256, and VF is 1 exactly when the minuend is at
least the subtrahend; with `x = 0xF` VF ends as the flag. -/
def Obligations.SubtractSetsNoBorrow : Prop :=
  ∀ (x y : Nibble) (s : State),
    WritesRegAndFlag (.subVxVy x y) s x (((s.reg x).toNat + 256 - (s.reg y).toNat) % 256)
      (if (s.reg y).toNat ≤ (s.reg x).toNat then 1 else 0) ∧
    WritesRegAndFlag (.subnVxVy x y) s x (((s.reg y).toNat + 256 - (s.reg x).toNat) % 256)
      (if (s.reg x).toNat ≤ (s.reg y).toNat then 1 else 0)

/-- SHR and SHL complete, shift Vx in place by one whatever `y` is, and VF is the bit shifted out; with `x = 0xF` VF
ends as that bit. That Vy is ignored is decision D23 and that the flag is written last D24 of the spec (42_alu.md,
sections 1, 2; log 20). -/
def Obligations.ShiftsSetTheBitShiftedOut : Prop :=
  ∀ (x y : Nibble) (s : State),
    WritesRegAndFlag (.shrVx x y) s x ((s.reg x).toNat / 2) ((s.reg x).toNat % 2) ∧
    WritesRegAndFlag (.shlVx x y) s x ((s.reg x).toNat * 2 % 256) ((s.reg x).toNat / 128)

/-- RND completes with a fresh free byte masked by `kk`, so that no bit outside `kk` is set; no flag (42_alu.md, section
2). The byte is the free value of log 1 and the counter the model's own; the statement holds for every byte. -/
def Obligations.RandomByteIsMasked : Prop :=
  ∀ (x : Nibble) (kk : Byte) (s : State),
    ∃ t, exec (.rnd x kk) s = .next t ∧ t.reg x = Config.randByte s.draws &&& kk ∧ t.reg x &&& ~~~kk = 0 ∧
      t.draws = s.draws + 1 ∧ t.pc = s.pc ∧ Frame [.draws] (· = x) s t

/-! ### Index register and memory -/

/-- R190 and R191: LD_I_NNN and ADD_I_VX complete; `I` becomes `nnn`, or the sum modulo 65536; no flag, no bounds
check, nothing else changes. -/
def Obligations.IndexIsLoadedAndAddedTo : Prop :=
  ∀ (nnn : Addr12) (x : Nibble) (s : State),
    (∃ t, exec (.ldINnn nnn) s = .next t ∧ t.i.toNat = nnn.toNat ∧ t.pc = s.pc ∧ Frame [.index] noReg s t) ∧
    (∃ t, exec (.addIVx x) s = .next t ∧ t.i.toNat = (s.i.toNat + (s.reg x).toNat) % 65536 ∧ t.pc = s.pc ∧
      Frame [.index] noReg s t)

/-- LD_F_VX completes; `I` becomes FONT_BASE + 5 * (Vx mod 16), where a fresh memory holds that digit's glyph. The
masking of the digit is decision D9 and the font D4, the spec's own choices (43_index_memory.md, section 2; log 4 and
log 17). -/
def Obligations.FontAddressOfADigit : Prop :=
  ∀ (x : Nibble) (s : State), s.config.wellFormed →
    ∃ t, exec (.ldFVx x) s = .next t ∧ t.i.toNat = s.config.fontBase + 5 * ((s.reg x).toNat % 16) ∧ t.pc = s.pc ∧
      Frame [.index] noReg s t ∧
      (s.mem = [] → ∀ k (h : k < 5), t.byteAt (t.i.toNat + k) = s.config.font[5 * ((s.reg x).toNat % 16) + k])

/-- With `I` at most 4093, LD_B_VX completes: the hundreds, tens and ones of Vx go to `I`, `I + 1`, `I + 2`, and nothing
else changes. Otherwise it is MemoryFault with the lowest offending address and no byte is written (43_index_memory.md,
section 2). Canonical memory is the premise. That the error leaves the whole state is decision D13 and the reported
address D2 of the spec (log 18). -/
def Obligations.DecimalDigitsAreStored : Prop :=
  ∀ (x : Nibble) (s : State), s.mem.wf s.config →
    (s.i.toNat + 2 ≤ 4095 →
      ∃ t, exec (.ldBVx x) s = .next t ∧ (t.byteAt s.i.toNat).toNat = (s.reg x).toNat / 100 ∧
        (t.byteAt (s.i.toNat + 1)).toNat = (s.reg x).toNat / 10 % 10 ∧
        (t.byteAt (s.i.toNat + 2)).toNat = (s.reg x).toNat % 10 ∧
        (∀ a, a < s.i.toNat ∨ s.i.toNat + 2 < a → t.byteAt a = s.byteAt a) ∧ t.pc = s.pc ∧
        Frame [.memory] noReg s t) ∧
    (4095 < s.i.toNat + 2 → StopsWith (.ldBVx x) s (.memoryFault (max s.i.toNat 4096)))

/-- With `I + x` at most 4095, LD_MEM_VX completes: `V[k]` goes to `I + k` for each `k` up to `x`, every other byte
stays, `I` and the registers stay. Otherwise it is MemoryFault and no byte is written. Canonical memory is the premise.
That `I` stays is decision D23 of the spec (43_index_memory.md, section 2; log 20), that the error leaves the whole
state D13 and the reported address D2 (log 18). -/
def Obligations.RegistersAreStored : Prop :=
  ∀ (x : Nibble) (s : State), s.mem.wf s.config →
    (s.i.toNat + x.toNat ≤ 4095 →
      ∃ t, exec (.ldMemVx x) s = .next t ∧
        (∀ k : Nibble, k.toNat ≤ x.toNat → t.byteAt (s.i.toNat + k.toNat) = s.reg k) ∧
        (∀ a, a < s.i.toNat ∨ s.i.toNat + x.toNat < a → t.byteAt a = s.byteAt a) ∧ t.pc = s.pc ∧
        Frame [.memory] noReg s t) ∧
    (4095 < s.i.toNat + x.toNat → StopsWith (.ldMemVx x) s (.memoryFault (max s.i.toNat 4096)))

/-- With `I + x` at most 4095, LD_VX_MEM completes: `V[k]` becomes the byte at `I + k` for each `k` up to `x`, the
registers above stay, `I` and memory stay. Otherwise it is MemoryFault and no register is written. That `I` stays is
decision D23 of the spec (43_index_memory.md, section 2; log 20), that the error leaves the whole state D13 and the
reported address D2 (log 18). -/
def Obligations.RegistersAreLoaded : Prop :=
  ∀ (x : Nibble) (s : State),
    (s.i.toNat + x.toNat ≤ 4095 →
      ∃ t, exec (.ldVxMem x) s = .next t ∧
        (∀ k : Nibble, k.toNat ≤ x.toNat → t.reg k = s.byteAt (s.i.toNat + k.toNat)) ∧ t.pc = s.pc ∧
        Frame [] (fun r => r.toNat ≤ x.toNat) s t) ∧
    (4095 < s.i.toNat + x.toNat → StopsWith (.ldVxMem x) s (.memoryFault (max s.i.toNat 4096)))

/-- What LD_MEM_VX stored, LD_VX_MEM loads back, whatever the registers held in between (43_index_memory.md, sections 1
and 2). It rests on LD_MEM_VX leaving `I`, decision D23 of the spec (log 20). Canonical memory is the premise. -/
def Obligations.LoadGivesBackWhatWasStored : Prop :=
  ∀ (x : Nibble) (s t : State) (v : Vector Byte 16), s.mem.wf s.config → exec (.ldMemVx x) s = .next t →
    ∃ u, exec (.ldVxMem x) (t.setV v) = .next u ∧ ∀ k : Nibble, k.toNat ≤ x.toNat → u.reg k = s.reg k

/-! ### Display -/

/-- R210: CLS completes; every pixel becomes 0 whatever it was, VF is not written, and nothing else changes. -/
def Obligations.ClearZeroesEveryPixel : Prop :=
  ∀ s : State, ∃ t, exec .cls s = .next t ∧ (∀ px py, t.fb.pixel px py = false) ∧ t.pc = s.pc ∧
    Frame [.display] noReg s t

/-- DRW completes when its `n` bytes exist, and always with `n = 0`: a pixel flips exactly when a sprite bit 1 falls on
it, sprite pixels off the display are dropped, VF is 1 exactly when a flipped pixel was 1, and nothing else changes.
Clipping is decision D3, the bit order D15 and `n = 0` D14, the spec's own choices (44_display.md; log 15, log 16). -/
def Obligations.DrawFlipsThePixelsTheSpriteHits : Prop :=
  ∀ (x y n : Nibble) (s : State), n = 0 ∨ s.i.toNat + n.toNat ≤ 4096 →
    ∃ t, exec (.drw x y n) s = .next t ∧
      (∀ px py, SpriteHits s x y n px py → t.fb.pixel px py = !s.fb.pixel px py) ∧
      (∀ px py, ¬ SpriteHits s x y n px py → t.fb.pixel px py = s.fb.pixel px py) ∧
      ((∃ px py, SpriteHits s x y n px py ∧ s.fb.pixel px py = true) → t.reg 0xF = 1) ∧
      ((∀ px py, SpriteHits s x y n px py → s.fb.pixel px py = false) → t.reg 0xF = 0) ∧
      t.pc = s.pc ∧ Frame [.display] (· = 0xF) s t

/-- After DRW, VF is 1 exactly when some pixel that was 1 before is 0 now, and 0 otherwise; that is when a drawn sprite
bit 1 met a display pixel 1 (44_display.md, section 3). Which pixel a sprite bit falls on rests on the bit order D15
(log 15, PRESUMED) and on the clip D3 (log 16) of the spec. -/
def Obligations.CollisionMeansAPixelWasCleared : Prop :=
  ∀ (x y n : Nibble) (s t : State), exec (.drw x y n) s = .next t →
    (t.reg 0xF = 1 ↔ ∃ px py, s.fb.pixel px py = true ∧ t.fb.pixel px py = false) ∧
    (t.reg 0xF = 1 ↔ ∃ px py, SpriteHits s x y n px py ∧ s.fb.pixel px py = true) ∧
    (t.reg 0xF = 0 ∨ t.reg 0xF = 1)

/-- The same sprite drawn twice at the same place, the registers that give the place as they were, restores the display,
and the second draw's VF is 1 exactly when the first draw set a pixel (44_display.md, sections 2, 3). R211's corner-case
sentence gives VF = 1 for any visible sprite bit 1, which fails where the first draw only cleared pixels; the pseudocode
of R211 and R213 are followed against it (log 23, DEDUCED). -/
def Obligations.DrawingTwiceRestoresTheDisplay : Prop :=
  ∀ (x y n : Nibble) (s t : State), exec (.drw x y n) s = .next t →
    ∃ u, exec (.drw x y n) (t.setV s.v) = .next u ∧
      (∀ px py, u.fb.pixel px py = s.fb.pixel px py) ∧
      (u.reg 0xF = 1 ↔ ∃ px py, s.fb.pixel px py = false ∧ t.fb.pixel px py = true)

/-- DRW with `n > 0` and a byte above 4095, also one of a clipped row, is MemoryFault with the lowest offending address;
no pixel and not VF is written. The check of clipped rows is decision D14 (44_display.md, section 3; log 16), that the
error leaves the whole state D13 and the reported address D2 (log 18), all of the spec. -/
def Obligations.DrawChecksEveryByteFirst : Prop :=
  ∀ (x y n : Nibble) (s : State), n ≠ 0 → 4096 < s.i.toNat + n.toNat →
    StopsWith (.drw x y n) s (.memoryFault (max s.i.toNat 4096))

/-! ### Timers and keys -/

/-- R232, R235, R236: LD_VX_DT, LD_DT_VX and LD_ST_VX complete with the timer read or set, and nothing else changes. -/
def Obligations.TimerInstructionsMoveOneByte : Prop :=
  ∀ (x : Nibble) (s : State),
    WritesReg (.ldVxDt x) s x s.dt.toNat ∧
    (∃ t, exec (.ldDtVx x) s = .next t ∧ t.dt = s.reg x ∧ t.pc = s.pc ∧ Frame [.delayTimer] noReg s t) ∧
    (∃ t, exec (.ldStVx x) s = .next t ∧ t.st = s.reg x ∧ t.pc = s.pc ∧ Frame [.soundTimer] noReg s t)

/-- LD_VX_K completes its step by beginning the wait: the advance is taken back, `mode` remembers `x` and the key states
of now, no register is written, even with keys down. That it never ends in this step is decision D6, the spec's own
choice (45_keypad_timers.md, section 4; log 19). -/
def Obligations.KeyWaitBegins : Prop :=
  ∀ (x : Nibble) (s : State),
    ∃ t, exec (.ldVxK x) s = .next t ∧ t.pc.toNat = (s.pc.toNat + 65534) % 65536 ∧
      t.mode = .waitingForKey x s.keys ∧ Frame [.mode] noReg s t

/-- One step of a wait never stops: with a key newly down, the lowest such key goes to the waiting register, `PC`
advances and the mode is Running; with none, only the remembered key states change. The lowest key and the look at each
step are decision D7, the spec's own choice (45_keypad_timers.md, section 4; log 19). -/
def Obligations.KeyWaitTakesTheLowestNewKey : Prop :=
  ∀ (s : State) (xw : Nibble) (prev : Keys), s.mode = .waitingForKey xw prev →
    ∃ t, step s = .next t ∧
      (∀ k, NewlyDown s prev k → (∀ j, j.toNat < k.toNat → ¬ NewlyDown s prev j) →
        (t.reg xw).toNat = k.toNat ∧ t.pc.toNat = (s.pc.toNat + 2) % 65536 ∧ t.mode = .running ∧
        Frame [.mode] (· = xw) s t) ∧
      ((∀ k, ¬ NewlyDown s prev k) →
        t.mode = .waitingForKey xw s.keys ∧ t.pc = s.pc ∧ Frame [.mode] noReg s t)

/-- Without a new key press a wait lasts for any number of steps, none of which stops, and nothing changes but what the
executor remembers of the keys. That a key held since before the wait does not end it, the edge reading, is decision D6
of the spec (45_keypad_timers.md, section 4; log 19). -/
def Obligations.KeyWaitLastsWithoutAPress : Prop :=
  ∀ (n : Nat) (s : State) (xw : Nibble) (prev : Keys), s.mode = .waitingForKey xw prev →
    (∀ k, ¬ NewlyDown s prev k) →
    ∃ t, Host.Core.run Sys2Proof.core n s = .next t ∧ (∃ p, t.mode = .waitingForKey xw p) ∧ t.pc = s.pc ∧
      Frame [.mode] noReg s t

/-! ### The surroundings -/

/-- R282: any number `n` of ticks takes each timer down by `n`, floored at 0, each whatever the other holds, and touches
nothing else. -/
def Obligations.TicksFloorTheTimersAtZero : Prop :=
  ∀ (n : Nat) (s : State),
    (transact .tickTimers s).1 = .done ∧
    (transactAll (List.replicate n .tickTimers) s).dt.toNat = s.dt.toNat - n ∧
    (transactAll (List.replicate n .tickTimers) s).st.toNat = s.st.toNat - n ∧
    (transactAll (List.replicate n .tickTimers) s).pc = s.pc ∧
    Frame [.delayTimer, .soundTimer] noReg s (transactAll (List.replicate n .tickTimers) s)

/-- A program of at most 3584 bytes is copied verbatim from 0x200 on and changes nothing else; a longer one is
RomTooLarge and nothing is copied. Canonical memory is the premise (46_host_operations.md, section 2, decision D19;
log 21). -/
def Obligations.ProgramIsCopiedOrRefusedWhole : Prop :=
  ∀ (bytes : List Byte) (s : State), s.mem.wf s.config →
    (bytes.length ≤ 3584 →
      ∃ t, transact (.loadProgram bytes) s = (.done, t) ∧
        (∀ k (h : k < bytes.length), t.byteAt (0x200 + k) = bytes[k]) ∧
        (∀ a, a < 0x200 ∨ 0x200 + bytes.length ≤ a → t.byteAt a = s.byteAt a) ∧ t.pc = s.pc ∧
        Frame [.memory] noReg s t) ∧
    (3584 < bytes.length → transact (.loadProgram bytes) s = (.loadFailed .romTooLarge, s))

/-- `set_key_state` changes one key and nothing else, and `display_snapshot` answers every pixel and changes nothing
(46_host_operations.md, sections 3, 4, decision D25; log 21). -/
def Obligations.KeysAreSetOneByOneAndTheDisplayIsReadWhole : Prop :=
  ∀ (s : State) (k : Nibble) (pressed : Bool),
    (∃ t, transact (.setKeyState k pressed) s = (.done, t) ∧ t.setKeys s.keys = s ∧
      ∀ j : Nibble, t.keys.getLsbD j.toNat = if j = k then pressed else s.keys.getLsbD j.toNat) ∧
    (∃ d, transact .displaySnapshot s = (.snapshot d, s) ∧ ∀ px py, d.pixel px py = s.fb.pixel px py)

/-- R254: `sound_active` is true exactly when `ST > 0`, and asking changes nothing. -/
def Obligations.SoundIsActiveWhileTheTimerRuns : Prop :=
  ∀ s : State, ∃ b, transact .soundActive s = (.sound b, s) ∧ (b = true ↔ 0 < s.st.toNat)

/-- `init` leaves the values of 10_state.md, section 11, from whatever state and for every configuration that R6 allows,
and the reset state is that with R6's defaults, the 80 font bytes of R311's table among them. Keys up, mode Running and
`init` of an existing instance are decision D18, the font, its address and its bytes D4, the spec's own choices (log 4,
log 5). -/
def Obligations.InitLeavesTheResetValues : Prop :=
  AsAfterInit State.reset ∧ State.reset.config.fontBase = 0x050 ∧
  State.reset.config.unknownOpcodePolicy = .continuing ∧
  (∀ (d : Fin 16) (k : Fin 5),
    State.reset.config.font[5 * d.val + k.val] = glyphsOfR311[d].extractLsb' (8 * (4 - k.val)) 8) ∧
  ∀ s : State, ∃ t, transact .init s = (.done, t) ∧ AsAfterInit t ∧ t.config = s.config
end

