-- ==== Sys2Proof/Laws/Decode.lean ====
section
/-! SUPPORT. The fields and the formats of an opcode as numbers (R91, R92), and each field of each format. -/

namespace Sys2Proof

/-! ### The fields as numbers (R91) -/

theorem opFam_toNat (op : Word) : (opFam op).toNat = op.toNat / 4096 := by
  have := op.isLt
  simp [opFam, BitVec.extractLsb'_toNat, Nat.shiftRight_eq_div_pow]; omega

theorem opNnn_toNat (op : Word) : (opNnn op).toNat = op.toNat % 4096 := by
  simp [opNnn, BitVec.extractLsb'_toNat]

theorem opX_toNat (op : Word) : (opX op).toNat = op.toNat / 256 % 16 := by
  simp [opX, BitVec.extractLsb'_toNat, Nat.shiftRight_eq_div_pow]

theorem opY_toNat (op : Word) : (opY op).toNat = op.toNat / 16 % 16 := by
  simp [opY, BitVec.extractLsb'_toNat, Nat.shiftRight_eq_div_pow]

theorem opKk_toNat (op : Word) : (opKk op).toNat = op.toNat % 256 := by
  simp [opKk, BitVec.extractLsb'_toNat]

theorem opN_toNat (op : Word) : (opN op).toNat = op.toNat % 16 := by
  simp [opN, BitVec.extractLsb'_toNat]

/-! ### The formats as numbers (R92, R100) -/

theorem append_toNat {n m : Nat} (a : BitVec n) (b : BitVec m) : (a ++ b).toNat = a.toNat * 2 ^ m + b.toNat := by
  rw [BitVec.toNat_append, Nat.shiftLeft_eq, Nat.mul_comm, ← Nat.two_pow_add_eq_or_of_lt b.isLt]

theorem formatA_toNat (f : Nibble) (nnn : Addr12) : (formatA f nnn).toNat = f.toNat * 4096 + nnn.toNat :=
  append_toNat f nnn

theorem formatXK_toNat (f x : Nibble) (kk : Byte) :
    (formatXK f x kk).toNat = f.toNat * 4096 + (x.toNat * 256 + kk.toNat) :=
  (append_toNat f (x ++ kk)).trans (by rw [append_toNat]; norm_num)

theorem formatXYN_toNat (f x y n : Nibble) :
    (formatXYN f x y n).toNat = f.toNat * 4096 + (x.toNat * 256 + (y.toNat * 16 + n.toNat)) :=
  (append_toNat f (x ++ (y ++ n))).trans (by rw [append_toNat, append_toNat]; norm_num)

theorem formatXS_toNat (f x : Nibble) (sel : Byte) :
    (formatXS f x sel).toNat = f.toNat * 4096 + (x.toNat * 256 + sel.toNat) :=
  formatXK_toNat f x sel

theorem opcodeOfBytes_toNat (hi lo : Byte) : (opcodeOfBytes hi lo).toNat = hi.toNat * 256 + lo.toNat :=
  append_toNat hi lo

/-! ### Each field of each format -/

@[simp] theorem opFam_formatA (f : Nibble) (nnn : Addr12) : opFam (formatA f nnn) = f := by
  apply BitVec.eq_of_toNat_eq; rw [opFam_toNat, formatA_toNat]; omega

@[simp] theorem opNnn_formatA (f : Nibble) (nnn : Addr12) : opNnn (formatA f nnn) = nnn := by
  apply BitVec.eq_of_toNat_eq; rw [opNnn_toNat, formatA_toNat]; omega

@[simp] theorem opFam_formatXK (f x : Nibble) (kk : Byte) : opFam (formatXK f x kk) = f := by
  apply BitVec.eq_of_toNat_eq; rw [opFam_toNat, formatXK_toNat]; omega

@[simp] theorem opX_formatXK (f x : Nibble) (kk : Byte) : opX (formatXK f x kk) = x := by
  apply BitVec.eq_of_toNat_eq; rw [opX_toNat, formatXK_toNat]; omega

@[simp] theorem opKk_formatXK (f x : Nibble) (kk : Byte) : opKk (formatXK f x kk) = kk := by
  apply BitVec.eq_of_toNat_eq; rw [opKk_toNat, formatXK_toNat]; omega

@[simp] theorem opFam_formatXYN (f x y n : Nibble) : opFam (formatXYN f x y n) = f := by
  apply BitVec.eq_of_toNat_eq; rw [opFam_toNat, formatXYN_toNat]; omega

@[simp] theorem opX_formatXYN (f x y n : Nibble) : opX (formatXYN f x y n) = x := by
  apply BitVec.eq_of_toNat_eq; rw [opX_toNat, formatXYN_toNat]; omega

@[simp] theorem opY_formatXYN (f x y n : Nibble) : opY (formatXYN f x y n) = y := by
  apply BitVec.eq_of_toNat_eq; rw [opY_toNat, formatXYN_toNat]; omega

@[simp] theorem opN_formatXYN (f x y n : Nibble) : opN (formatXYN f x y n) = n := by
  apply BitVec.eq_of_toNat_eq; rw [opN_toNat, formatXYN_toNat]; omega

@[simp] theorem opFam_formatXS (f x : Nibble) (sel : Byte) : opFam (formatXS f x sel) = f := opFam_formatXK f x sel

@[simp] theorem opX_formatXS (f x : Nibble) (sel : Byte) : opX (formatXS f x sel) = x := opX_formatXK f x sel

@[simp] theorem opKk_formatXS (f x : Nibble) (sel : Byte) : opKk (formatXS f x sel) = sel := opKk_formatXK f x sel

/-! ### The masks of the opcode table (R95) -/

theorem getLsbD_formatA (f : Nibble) (nnn : Addr12) (k : Nat) :
    (formatA f nnn).getLsbD k = if k < 12 then nnn.getLsbD k else f.getLsbD (k - 12) :=
  BitVec.getLsbD_append

theorem getLsbD_formatXS (f x : Nibble) (sel : Byte) (k : Nat) :
    (formatXS f x sel).getLsbD k =
      if k < 12 then (if k < 8 then sel.getLsbD k else x.getLsbD (k - 8)) else f.getLsbD (k - 12) := by
  rw [← BitVec.getLsbD_append]; exact BitVec.getLsbD_append (m := 12)

theorem getLsbD_formatXYN (f x y n : Nibble) (k : Nat) :
    (formatXYN f x y n).getLsbD k =
      if k < 12 then (if k < 8 then (if k < 4 then n.getLsbD k else y.getLsbD (k - 4)) else x.getLsbD (k - 8))
      else f.getLsbD (k - 12) := by
  rw [← BitVec.getLsbD_append]
  exact getLsbD_formatXS f x (y ++ n) k

/-- Mask 0xF000 keeps the family. -/
theorem and_F000 (op : Word) : op &&& 0xF000 = formatA (opFam op) 0 := by
  apply BitVec.eq_of_getLsbD_eq
  intro k hk
  rw [getLsbD_formatA]
  interval_cases k <;> simp [opFam]

/-- Mask 0xF00F keeps the family and the low nibble. -/
theorem and_F00F (op : Word) : op &&& 0xF00F = formatXYN (opFam op) 0 0 (opN op) := by
  apply BitVec.eq_of_getLsbD_eq
  intro k hk
  rw [getLsbD_formatXYN]
  interval_cases k <;> simp [opFam, opN]

/-- Mask 0xF0FF keeps the family and the low byte. -/
theorem and_F0FF (op : Word) : op &&& 0xF0FF = formatXS (opFam op) 0 (opKk op) := by
  apply BitVec.eq_of_getLsbD_eq
  intro k hk
  rw [getLsbD_formatXS]
  interval_cases k <;> simp [opFam, opKk]

/-! ### The two bytes of an opcode (R64) -/

@[simp] theorem opcodeOfBytes_hi_lo (op : Word) : opcodeOfBytes (opcodeHi op) (opcodeLo op) = op := by
  have := op.isLt
  apply BitVec.eq_of_toNat_eq
  rw [opcodeOfBytes_toNat]
  simp [opcodeHi, opcodeLo, BitVec.extractLsb'_toNat, Nat.shiftRight_eq_div_pow]
  omega

theorem decodeBytes_of_decode {op : Word} {i : Instr} (h : decode op = some i) (rest : List Byte) :
    decodeBytes (opcodeHi op :: opcodeLo op :: rest) = .ok (i, rest) := by
  simp [decodeBytes, h]

end Sys2Proof
end

