-- ==== Sys2Proof/Laws/State.lean ====
section
/-! SUPPORT. One lemma for each field after each update of the state, and the general registers read after a write. -/

namespace Sys2Proof.Machine

/-! ### `setPc` -/

@[simp] theorem State.setPc_v (s : State) (a : Word) : (s.setPc a).v = s.v := rfl
@[simp] theorem State.setPc_i (s : State) (a : Word) : (s.setPc a).i = s.i := rfl
@[simp] theorem State.setPc_pc (s : State) (a : Word) : (s.setPc a).pc = a := rfl
@[simp] theorem State.setPc_sp (s : State) (a : Word) : (s.setPc a).sp = s.sp := rfl
@[simp] theorem State.setPc_stack (s : State) (a : Word) : (s.setPc a).stack = s.stack := rfl
@[simp] theorem State.setPc_dt (s : State) (a : Word) : (s.setPc a).dt = s.dt := rfl
@[simp] theorem State.setPc_st (s : State) (a : Word) : (s.setPc a).st = s.st := rfl
@[simp] theorem State.setPc_mem (s : State) (a : Word) : (s.setPc a).mem = s.mem := rfl
@[simp] theorem State.setPc_fb (s : State) (a : Word) : (s.setPc a).fb = s.fb := rfl
@[simp] theorem State.setPc_keys (s : State) (a : Word) : (s.setPc a).keys = s.keys := rfl
@[simp] theorem State.setPc_mode (s : State) (a : Word) : (s.setPc a).mode = s.mode := rfl
@[simp] theorem State.setPc_draws (s : State) (a : Word) : (s.setPc a).draws = s.draws := rfl
@[simp] theorem State.setPc_config (s : State) (a : Word) : (s.setPc a).config = s.config := rfl
@[simp] theorem State.setPc_reg (s : State) (a : Word) (r : Nibble) : (s.setPc a).reg r = s.reg r := rfl
@[simp] theorem State.setPc_byteAt (s : State) (a : Word) (adr : Nat) : (s.setPc a).byteAt adr = s.byteAt adr := rfl

/-! ### `setI` -/

@[simp] theorem State.setI_v (s : State) (a : Word) : (s.setI a).v = s.v := rfl
@[simp] theorem State.setI_i (s : State) (a : Word) : (s.setI a).i = a := rfl
@[simp] theorem State.setI_pc (s : State) (a : Word) : (s.setI a).pc = s.pc := rfl
@[simp] theorem State.setI_sp (s : State) (a : Word) : (s.setI a).sp = s.sp := rfl
@[simp] theorem State.setI_stack (s : State) (a : Word) : (s.setI a).stack = s.stack := rfl
@[simp] theorem State.setI_dt (s : State) (a : Word) : (s.setI a).dt = s.dt := rfl
@[simp] theorem State.setI_st (s : State) (a : Word) : (s.setI a).st = s.st := rfl
@[simp] theorem State.setI_mem (s : State) (a : Word) : (s.setI a).mem = s.mem := rfl
@[simp] theorem State.setI_fb (s : State) (a : Word) : (s.setI a).fb = s.fb := rfl
@[simp] theorem State.setI_keys (s : State) (a : Word) : (s.setI a).keys = s.keys := rfl
@[simp] theorem State.setI_mode (s : State) (a : Word) : (s.setI a).mode = s.mode := rfl
@[simp] theorem State.setI_draws (s : State) (a : Word) : (s.setI a).draws = s.draws := rfl
@[simp] theorem State.setI_config (s : State) (a : Word) : (s.setI a).config = s.config := rfl
@[simp] theorem State.setI_reg (s : State) (a : Word) (r : Nibble) : (s.setI a).reg r = s.reg r := rfl
@[simp] theorem State.setI_byteAt (s : State) (a : Word) (adr : Nat) : (s.setI a).byteAt adr = s.byteAt adr := rfl

/-! ### `setDt` -/

@[simp] theorem State.setDt_v (s : State) (b : Byte) : (s.setDt b).v = s.v := rfl
@[simp] theorem State.setDt_i (s : State) (b : Byte) : (s.setDt b).i = s.i := rfl
@[simp] theorem State.setDt_pc (s : State) (b : Byte) : (s.setDt b).pc = s.pc := rfl
@[simp] theorem State.setDt_sp (s : State) (b : Byte) : (s.setDt b).sp = s.sp := rfl
@[simp] theorem State.setDt_stack (s : State) (b : Byte) : (s.setDt b).stack = s.stack := rfl
@[simp] theorem State.setDt_dt (s : State) (b : Byte) : (s.setDt b).dt = b := rfl
@[simp] theorem State.setDt_st (s : State) (b : Byte) : (s.setDt b).st = s.st := rfl
@[simp] theorem State.setDt_mem (s : State) (b : Byte) : (s.setDt b).mem = s.mem := rfl
@[simp] theorem State.setDt_fb (s : State) (b : Byte) : (s.setDt b).fb = s.fb := rfl
@[simp] theorem State.setDt_keys (s : State) (b : Byte) : (s.setDt b).keys = s.keys := rfl
@[simp] theorem State.setDt_mode (s : State) (b : Byte) : (s.setDt b).mode = s.mode := rfl
@[simp] theorem State.setDt_draws (s : State) (b : Byte) : (s.setDt b).draws = s.draws := rfl
@[simp] theorem State.setDt_config (s : State) (b : Byte) : (s.setDt b).config = s.config := rfl
@[simp] theorem State.setDt_reg (s : State) (b : Byte) (r : Nibble) : (s.setDt b).reg r = s.reg r := rfl
@[simp] theorem State.setDt_byteAt (s : State) (b : Byte) (adr : Nat) : (s.setDt b).byteAt adr = s.byteAt adr := rfl

/-! ### `setSt` -/

@[simp] theorem State.setSt_v (s : State) (b : Byte) : (s.setSt b).v = s.v := rfl
@[simp] theorem State.setSt_i (s : State) (b : Byte) : (s.setSt b).i = s.i := rfl
@[simp] theorem State.setSt_pc (s : State) (b : Byte) : (s.setSt b).pc = s.pc := rfl
@[simp] theorem State.setSt_sp (s : State) (b : Byte) : (s.setSt b).sp = s.sp := rfl
@[simp] theorem State.setSt_stack (s : State) (b : Byte) : (s.setSt b).stack = s.stack := rfl
@[simp] theorem State.setSt_dt (s : State) (b : Byte) : (s.setSt b).dt = s.dt := rfl
@[simp] theorem State.setSt_st (s : State) (b : Byte) : (s.setSt b).st = b := rfl
@[simp] theorem State.setSt_mem (s : State) (b : Byte) : (s.setSt b).mem = s.mem := rfl
@[simp] theorem State.setSt_fb (s : State) (b : Byte) : (s.setSt b).fb = s.fb := rfl
@[simp] theorem State.setSt_keys (s : State) (b : Byte) : (s.setSt b).keys = s.keys := rfl
@[simp] theorem State.setSt_mode (s : State) (b : Byte) : (s.setSt b).mode = s.mode := rfl
@[simp] theorem State.setSt_draws (s : State) (b : Byte) : (s.setSt b).draws = s.draws := rfl
@[simp] theorem State.setSt_config (s : State) (b : Byte) : (s.setSt b).config = s.config := rfl
@[simp] theorem State.setSt_reg (s : State) (b : Byte) (r : Nibble) : (s.setSt b).reg r = s.reg r := rfl
@[simp] theorem State.setSt_byteAt (s : State) (b : Byte) (adr : Nat) : (s.setSt b).byteAt adr = s.byteAt adr := rfl

/-! ### `setMem` -/

@[simp] theorem State.setMem_v (s : State) (m : Memory) : (s.setMem m).v = s.v := rfl
@[simp] theorem State.setMem_i (s : State) (m : Memory) : (s.setMem m).i = s.i := rfl
@[simp] theorem State.setMem_pc (s : State) (m : Memory) : (s.setMem m).pc = s.pc := rfl
@[simp] theorem State.setMem_sp (s : State) (m : Memory) : (s.setMem m).sp = s.sp := rfl
@[simp] theorem State.setMem_stack (s : State) (m : Memory) : (s.setMem m).stack = s.stack := rfl
@[simp] theorem State.setMem_dt (s : State) (m : Memory) : (s.setMem m).dt = s.dt := rfl
@[simp] theorem State.setMem_st (s : State) (m : Memory) : (s.setMem m).st = s.st := rfl
@[simp] theorem State.setMem_mem (s : State) (m : Memory) : (s.setMem m).mem = m := rfl
@[simp] theorem State.setMem_fb (s : State) (m : Memory) : (s.setMem m).fb = s.fb := rfl
@[simp] theorem State.setMem_keys (s : State) (m : Memory) : (s.setMem m).keys = s.keys := rfl
@[simp] theorem State.setMem_mode (s : State) (m : Memory) : (s.setMem m).mode = s.mode := rfl
@[simp] theorem State.setMem_draws (s : State) (m : Memory) : (s.setMem m).draws = s.draws := rfl
@[simp] theorem State.setMem_config (s : State) (m : Memory) : (s.setMem m).config = s.config := rfl
@[simp] theorem State.setMem_reg (s : State) (m : Memory) (r : Nibble) : (s.setMem m).reg r = s.reg r := rfl

/-! ### `setFb` -/

@[simp] theorem State.setFb_v (s : State) (d : Display) : (s.setFb d).v = s.v := rfl
@[simp] theorem State.setFb_i (s : State) (d : Display) : (s.setFb d).i = s.i := rfl
@[simp] theorem State.setFb_pc (s : State) (d : Display) : (s.setFb d).pc = s.pc := rfl
@[simp] theorem State.setFb_sp (s : State) (d : Display) : (s.setFb d).sp = s.sp := rfl
@[simp] theorem State.setFb_stack (s : State) (d : Display) : (s.setFb d).stack = s.stack := rfl
@[simp] theorem State.setFb_dt (s : State) (d : Display) : (s.setFb d).dt = s.dt := rfl
@[simp] theorem State.setFb_st (s : State) (d : Display) : (s.setFb d).st = s.st := rfl
@[simp] theorem State.setFb_mem (s : State) (d : Display) : (s.setFb d).mem = s.mem := rfl
@[simp] theorem State.setFb_fb (s : State) (d : Display) : (s.setFb d).fb = d := rfl
@[simp] theorem State.setFb_keys (s : State) (d : Display) : (s.setFb d).keys = s.keys := rfl
@[simp] theorem State.setFb_mode (s : State) (d : Display) : (s.setFb d).mode = s.mode := rfl
@[simp] theorem State.setFb_draws (s : State) (d : Display) : (s.setFb d).draws = s.draws := rfl
@[simp] theorem State.setFb_config (s : State) (d : Display) : (s.setFb d).config = s.config := rfl
@[simp] theorem State.setFb_reg (s : State) (d : Display) (r : Nibble) : (s.setFb d).reg r = s.reg r := rfl
@[simp] theorem State.setFb_byteAt (s : State) (d : Display) (adr : Nat) : (s.setFb d).byteAt adr = s.byteAt adr := rfl

/-! ### `setKeys` -/

@[simp] theorem State.setKeys_v (s : State) (k : Keys) : (s.setKeys k).v = s.v := rfl
@[simp] theorem State.setKeys_i (s : State) (k : Keys) : (s.setKeys k).i = s.i := rfl
@[simp] theorem State.setKeys_pc (s : State) (k : Keys) : (s.setKeys k).pc = s.pc := rfl
@[simp] theorem State.setKeys_sp (s : State) (k : Keys) : (s.setKeys k).sp = s.sp := rfl
@[simp] theorem State.setKeys_stack (s : State) (k : Keys) : (s.setKeys k).stack = s.stack := rfl
@[simp] theorem State.setKeys_dt (s : State) (k : Keys) : (s.setKeys k).dt = s.dt := rfl
@[simp] theorem State.setKeys_st (s : State) (k : Keys) : (s.setKeys k).st = s.st := rfl
@[simp] theorem State.setKeys_mem (s : State) (k : Keys) : (s.setKeys k).mem = s.mem := rfl
@[simp] theorem State.setKeys_fb (s : State) (k : Keys) : (s.setKeys k).fb = s.fb := rfl
@[simp] theorem State.setKeys_keys (s : State) (k : Keys) : (s.setKeys k).keys = k := rfl
@[simp] theorem State.setKeys_mode (s : State) (k : Keys) : (s.setKeys k).mode = s.mode := rfl
@[simp] theorem State.setKeys_draws (s : State) (k : Keys) : (s.setKeys k).draws = s.draws := rfl
@[simp] theorem State.setKeys_config (s : State) (k : Keys) : (s.setKeys k).config = s.config := rfl
@[simp] theorem State.setKeys_reg (s : State) (k : Keys) (r : Nibble) : (s.setKeys k).reg r = s.reg r := rfl
@[simp] theorem State.setKeys_byteAt (s : State) (k : Keys) (adr : Nat) : (s.setKeys k).byteAt adr = s.byteAt adr := rfl

/-! ### `setMode` -/

@[simp] theorem State.setMode_v (s : State) (m : Mode) : (s.setMode m).v = s.v := rfl
@[simp] theorem State.setMode_i (s : State) (m : Mode) : (s.setMode m).i = s.i := rfl
@[simp] theorem State.setMode_pc (s : State) (m : Mode) : (s.setMode m).pc = s.pc := rfl
@[simp] theorem State.setMode_sp (s : State) (m : Mode) : (s.setMode m).sp = s.sp := rfl
@[simp] theorem State.setMode_stack (s : State) (m : Mode) : (s.setMode m).stack = s.stack := rfl
@[simp] theorem State.setMode_dt (s : State) (m : Mode) : (s.setMode m).dt = s.dt := rfl
@[simp] theorem State.setMode_st (s : State) (m : Mode) : (s.setMode m).st = s.st := rfl
@[simp] theorem State.setMode_mem (s : State) (m : Mode) : (s.setMode m).mem = s.mem := rfl
@[simp] theorem State.setMode_fb (s : State) (m : Mode) : (s.setMode m).fb = s.fb := rfl
@[simp] theorem State.setMode_keys (s : State) (m : Mode) : (s.setMode m).keys = s.keys := rfl
@[simp] theorem State.setMode_mode (s : State) (m : Mode) : (s.setMode m).mode = m := rfl
@[simp] theorem State.setMode_draws (s : State) (m : Mode) : (s.setMode m).draws = s.draws := rfl
@[simp] theorem State.setMode_config (s : State) (m : Mode) : (s.setMode m).config = s.config := rfl
@[simp] theorem State.setMode_reg (s : State) (m : Mode) (r : Nibble) : (s.setMode m).reg r = s.reg r := rfl
@[simp] theorem State.setMode_byteAt (s : State) (m : Mode) (adr : Nat) : (s.setMode m).byteAt adr = s.byteAt adr := rfl

/-! ### `setDraws` -/

@[simp] theorem State.setDraws_v (s : State) (n : Nat) : (s.setDraws n).v = s.v := rfl
@[simp] theorem State.setDraws_i (s : State) (n : Nat) : (s.setDraws n).i = s.i := rfl
@[simp] theorem State.setDraws_pc (s : State) (n : Nat) : (s.setDraws n).pc = s.pc := rfl
@[simp] theorem State.setDraws_sp (s : State) (n : Nat) : (s.setDraws n).sp = s.sp := rfl
@[simp] theorem State.setDraws_stack (s : State) (n : Nat) : (s.setDraws n).stack = s.stack := rfl
@[simp] theorem State.setDraws_dt (s : State) (n : Nat) : (s.setDraws n).dt = s.dt := rfl
@[simp] theorem State.setDraws_st (s : State) (n : Nat) : (s.setDraws n).st = s.st := rfl
@[simp] theorem State.setDraws_mem (s : State) (n : Nat) : (s.setDraws n).mem = s.mem := rfl
@[simp] theorem State.setDraws_fb (s : State) (n : Nat) : (s.setDraws n).fb = s.fb := rfl
@[simp] theorem State.setDraws_keys (s : State) (n : Nat) : (s.setDraws n).keys = s.keys := rfl
@[simp] theorem State.setDraws_mode (s : State) (n : Nat) : (s.setDraws n).mode = s.mode := rfl
@[simp] theorem State.setDraws_draws (s : State) (n : Nat) : (s.setDraws n).draws = n := rfl
@[simp] theorem State.setDraws_config (s : State) (n : Nat) : (s.setDraws n).config = s.config := rfl
@[simp] theorem State.setDraws_reg (s : State) (n : Nat) (r : Nibble) : (s.setDraws n).reg r = s.reg r := rfl
@[simp] theorem State.setDraws_byteAt (s : State) (n : Nat) (adr : Nat) : (s.setDraws n).byteAt adr = s.byteAt adr := rfl

/-! ### `setV` -/

@[simp] theorem State.setV_v (s : State) (v : Vector Byte 16) : (s.setV v).v = v := rfl
@[simp] theorem State.setV_i (s : State) (v : Vector Byte 16) : (s.setV v).i = s.i := rfl
@[simp] theorem State.setV_pc (s : State) (v : Vector Byte 16) : (s.setV v).pc = s.pc := rfl
@[simp] theorem State.setV_sp (s : State) (v : Vector Byte 16) : (s.setV v).sp = s.sp := rfl
@[simp] theorem State.setV_stack (s : State) (v : Vector Byte 16) : (s.setV v).stack = s.stack := rfl
@[simp] theorem State.setV_dt (s : State) (v : Vector Byte 16) : (s.setV v).dt = s.dt := rfl
@[simp] theorem State.setV_st (s : State) (v : Vector Byte 16) : (s.setV v).st = s.st := rfl
@[simp] theorem State.setV_mem (s : State) (v : Vector Byte 16) : (s.setV v).mem = s.mem := rfl
@[simp] theorem State.setV_fb (s : State) (v : Vector Byte 16) : (s.setV v).fb = s.fb := rfl
@[simp] theorem State.setV_keys (s : State) (v : Vector Byte 16) : (s.setV v).keys = s.keys := rfl
@[simp] theorem State.setV_mode (s : State) (v : Vector Byte 16) : (s.setV v).mode = s.mode := rfl
@[simp] theorem State.setV_draws (s : State) (v : Vector Byte 16) : (s.setV v).draws = s.draws := rfl
@[simp] theorem State.setV_config (s : State) (v : Vector Byte 16) : (s.setV v).config = s.config := rfl
@[simp] theorem State.setV_byteAt (s : State) (v : Vector Byte 16) (adr : Nat) : (s.setV v).byteAt adr = s.byteAt adr := rfl

/-! ### `setStack` -/

@[simp] theorem State.setStack_v (s : State) (sp : Fin 17) (stack : Vector Word 16) : (s.setStack sp stack).v = s.v := rfl
@[simp] theorem State.setStack_i (s : State) (sp : Fin 17) (stack : Vector Word 16) : (s.setStack sp stack).i = s.i := rfl
@[simp] theorem State.setStack_pc (s : State) (sp : Fin 17) (stack : Vector Word 16) : (s.setStack sp stack).pc = s.pc := rfl
@[simp] theorem State.setStack_sp (s : State) (sp : Fin 17) (stack : Vector Word 16) : (s.setStack sp stack).sp = sp := rfl
@[simp] theorem State.setStack_stack (s : State) (sp : Fin 17) (stack : Vector Word 16) : (s.setStack sp stack).stack = stack := rfl
@[simp] theorem State.setStack_dt (s : State) (sp : Fin 17) (stack : Vector Word 16) : (s.setStack sp stack).dt = s.dt := rfl
@[simp] theorem State.setStack_st (s : State) (sp : Fin 17) (stack : Vector Word 16) : (s.setStack sp stack).st = s.st := rfl
@[simp] theorem State.setStack_mem (s : State) (sp : Fin 17) (stack : Vector Word 16) : (s.setStack sp stack).mem = s.mem := rfl
@[simp] theorem State.setStack_fb (s : State) (sp : Fin 17) (stack : Vector Word 16) : (s.setStack sp stack).fb = s.fb := rfl
@[simp] theorem State.setStack_keys (s : State) (sp : Fin 17) (stack : Vector Word 16) : (s.setStack sp stack).keys = s.keys := rfl
@[simp] theorem State.setStack_mode (s : State) (sp : Fin 17) (stack : Vector Word 16) : (s.setStack sp stack).mode = s.mode := rfl
@[simp] theorem State.setStack_draws (s : State) (sp : Fin 17) (stack : Vector Word 16) : (s.setStack sp stack).draws = s.draws := rfl
@[simp] theorem State.setStack_config (s : State) (sp : Fin 17) (stack : Vector Word 16) : (s.setStack sp stack).config = s.config := rfl
@[simp] theorem State.setStack_reg (s : State) (sp : Fin 17) (stack : Vector Word 16) (r : Nibble) : (s.setStack sp stack).reg r = s.reg r := rfl
@[simp] theorem State.setStack_byteAt (s : State) (sp : Fin 17) (stack : Vector Word 16) (adr : Nat) : (s.setStack sp stack).byteAt adr = s.byteAt adr := rfl

/-! ### `setReg` -/

@[simp] theorem State.setReg_i (s : State) (x : Nibble) (b : Byte) : (s.setReg x b).i = s.i := rfl
@[simp] theorem State.setReg_pc (s : State) (x : Nibble) (b : Byte) : (s.setReg x b).pc = s.pc := rfl
@[simp] theorem State.setReg_sp (s : State) (x : Nibble) (b : Byte) : (s.setReg x b).sp = s.sp := rfl
@[simp] theorem State.setReg_stack (s : State) (x : Nibble) (b : Byte) : (s.setReg x b).stack = s.stack := rfl
@[simp] theorem State.setReg_dt (s : State) (x : Nibble) (b : Byte) : (s.setReg x b).dt = s.dt := rfl
@[simp] theorem State.setReg_st (s : State) (x : Nibble) (b : Byte) : (s.setReg x b).st = s.st := rfl
@[simp] theorem State.setReg_mem (s : State) (x : Nibble) (b : Byte) : (s.setReg x b).mem = s.mem := rfl
@[simp] theorem State.setReg_fb (s : State) (x : Nibble) (b : Byte) : (s.setReg x b).fb = s.fb := rfl
@[simp] theorem State.setReg_keys (s : State) (x : Nibble) (b : Byte) : (s.setReg x b).keys = s.keys := rfl
@[simp] theorem State.setReg_mode (s : State) (x : Nibble) (b : Byte) : (s.setReg x b).mode = s.mode := rfl
@[simp] theorem State.setReg_draws (s : State) (x : Nibble) (b : Byte) : (s.setReg x b).draws = s.draws := rfl
@[simp] theorem State.setReg_config (s : State) (x : Nibble) (b : Byte) : (s.setReg x b).config = s.config := rfl
@[simp] theorem State.setReg_byteAt (s : State) (x : Nibble) (b : Byte) (a : Nat) : (s.setReg x b).byteAt a = s.byteAt a := rfl

/-! ### `setRegFlag` -/

@[simp] theorem State.setRegFlag_i (s : State) (x : Nibble) (r fl : Byte) : (s.setRegFlag x r fl).i = s.i := rfl
@[simp] theorem State.setRegFlag_pc (s : State) (x : Nibble) (r fl : Byte) : (s.setRegFlag x r fl).pc = s.pc := rfl
@[simp] theorem State.setRegFlag_sp (s : State) (x : Nibble) (r fl : Byte) : (s.setRegFlag x r fl).sp = s.sp := rfl
@[simp] theorem State.setRegFlag_stack (s : State) (x : Nibble) (r fl : Byte) : (s.setRegFlag x r fl).stack = s.stack := rfl
@[simp] theorem State.setRegFlag_dt (s : State) (x : Nibble) (r fl : Byte) : (s.setRegFlag x r fl).dt = s.dt := rfl
@[simp] theorem State.setRegFlag_st (s : State) (x : Nibble) (r fl : Byte) : (s.setRegFlag x r fl).st = s.st := rfl
@[simp] theorem State.setRegFlag_mem (s : State) (x : Nibble) (r fl : Byte) : (s.setRegFlag x r fl).mem = s.mem := rfl
@[simp] theorem State.setRegFlag_fb (s : State) (x : Nibble) (r fl : Byte) : (s.setRegFlag x r fl).fb = s.fb := rfl
@[simp] theorem State.setRegFlag_keys (s : State) (x : Nibble) (r fl : Byte) : (s.setRegFlag x r fl).keys = s.keys := rfl
@[simp] theorem State.setRegFlag_mode (s : State) (x : Nibble) (r fl : Byte) : (s.setRegFlag x r fl).mode = s.mode := rfl
@[simp] theorem State.setRegFlag_draws (s : State) (x : Nibble) (r fl : Byte) : (s.setRegFlag x r fl).draws = s.draws := rfl
@[simp] theorem State.setRegFlag_config (s : State) (x : Nibble) (r fl : Byte) : (s.setRegFlag x r fl).config = s.config := rfl
@[simp] theorem State.setRegFlag_byteAt (s : State) (x : Nibble) (r fl : Byte) (a : Nat) : (s.setRegFlag x r fl).byteAt a = s.byteAt a := rfl

/-! ### `loadRegs` -/

@[simp] theorem State.loadRegs_i (s : State) (bs : List Byte) : (s.loadRegs bs).i = s.i := rfl
@[simp] theorem State.loadRegs_pc (s : State) (bs : List Byte) : (s.loadRegs bs).pc = s.pc := rfl
@[simp] theorem State.loadRegs_sp (s : State) (bs : List Byte) : (s.loadRegs bs).sp = s.sp := rfl
@[simp] theorem State.loadRegs_stack (s : State) (bs : List Byte) : (s.loadRegs bs).stack = s.stack := rfl
@[simp] theorem State.loadRegs_dt (s : State) (bs : List Byte) : (s.loadRegs bs).dt = s.dt := rfl
@[simp] theorem State.loadRegs_st (s : State) (bs : List Byte) : (s.loadRegs bs).st = s.st := rfl
@[simp] theorem State.loadRegs_mem (s : State) (bs : List Byte) : (s.loadRegs bs).mem = s.mem := rfl
@[simp] theorem State.loadRegs_fb (s : State) (bs : List Byte) : (s.loadRegs bs).fb = s.fb := rfl
@[simp] theorem State.loadRegs_keys (s : State) (bs : List Byte) : (s.loadRegs bs).keys = s.keys := rfl
@[simp] theorem State.loadRegs_mode (s : State) (bs : List Byte) : (s.loadRegs bs).mode = s.mode := rfl
@[simp] theorem State.loadRegs_draws (s : State) (bs : List Byte) : (s.loadRegs bs).draws = s.draws := rfl
@[simp] theorem State.loadRegs_config (s : State) (bs : List Byte) : (s.loadRegs bs).config = s.config := rfl
@[simp] theorem State.loadRegs_byteAt (s : State) (bs : List Byte) (a : Nat) : (s.loadRegs bs).byteAt a = s.byteAt a := rfl

/-! ### `storeBytes` -/

@[simp] theorem State.storeBytes_v (s : State) (adr : Nat) (bs : List Byte) : (s.storeBytes adr bs).v = s.v := rfl
@[simp] theorem State.storeBytes_i (s : State) (adr : Nat) (bs : List Byte) : (s.storeBytes adr bs).i = s.i := rfl
@[simp] theorem State.storeBytes_pc (s : State) (adr : Nat) (bs : List Byte) : (s.storeBytes adr bs).pc = s.pc := rfl
@[simp] theorem State.storeBytes_sp (s : State) (adr : Nat) (bs : List Byte) : (s.storeBytes adr bs).sp = s.sp := rfl
@[simp] theorem State.storeBytes_stack (s : State) (adr : Nat) (bs : List Byte) : (s.storeBytes adr bs).stack = s.stack := rfl
@[simp] theorem State.storeBytes_dt (s : State) (adr : Nat) (bs : List Byte) : (s.storeBytes adr bs).dt = s.dt := rfl
@[simp] theorem State.storeBytes_st (s : State) (adr : Nat) (bs : List Byte) : (s.storeBytes adr bs).st = s.st := rfl
@[simp] theorem State.storeBytes_fb (s : State) (adr : Nat) (bs : List Byte) : (s.storeBytes adr bs).fb = s.fb := rfl
@[simp] theorem State.storeBytes_keys (s : State) (adr : Nat) (bs : List Byte) : (s.storeBytes adr bs).keys = s.keys := rfl
@[simp] theorem State.storeBytes_mode (s : State) (adr : Nat) (bs : List Byte) : (s.storeBytes adr bs).mode = s.mode := rfl
@[simp] theorem State.storeBytes_draws (s : State) (adr : Nat) (bs : List Byte) : (s.storeBytes adr bs).draws = s.draws := rfl
@[simp] theorem State.storeBytes_config (s : State) (adr : Nat) (bs : List Byte) : (s.storeBytes adr bs).config = s.config := rfl
@[simp] theorem State.storeBytes_reg (s : State) (adr : Nat) (bs : List Byte) (r : Nibble) : (s.storeBytes adr bs).reg r = s.reg r := rfl

/-! ### `advancePc` -/

@[simp] theorem State.advancePc_v (s : State) : (s.advancePc).v = s.v := rfl
@[simp] theorem State.advancePc_i (s : State) : (s.advancePc).i = s.i := rfl
@[simp] theorem State.advancePc_sp (s : State) : (s.advancePc).sp = s.sp := rfl
@[simp] theorem State.advancePc_stack (s : State) : (s.advancePc).stack = s.stack := rfl
@[simp] theorem State.advancePc_dt (s : State) : (s.advancePc).dt = s.dt := rfl
@[simp] theorem State.advancePc_st (s : State) : (s.advancePc).st = s.st := rfl
@[simp] theorem State.advancePc_mem (s : State) : (s.advancePc).mem = s.mem := rfl
@[simp] theorem State.advancePc_fb (s : State) : (s.advancePc).fb = s.fb := rfl
@[simp] theorem State.advancePc_keys (s : State) : (s.advancePc).keys = s.keys := rfl
@[simp] theorem State.advancePc_mode (s : State) : (s.advancePc).mode = s.mode := rfl
@[simp] theorem State.advancePc_draws (s : State) : (s.advancePc).draws = s.draws := rfl
@[simp] theorem State.advancePc_config (s : State) : (s.advancePc).config = s.config := rfl
@[simp] theorem State.advancePc_reg (s : State) (r : Nibble) : (s.advancePc).reg r = s.reg r := rfl
@[simp] theorem State.advancePc_byteAt (s : State) (a : Nat) : (s.advancePc).byteAt a = s.byteAt a := rfl

/-! ### `consumeDraw` -/

@[simp] theorem State.consumeDraw_v (s : State) : (s.consumeDraw).v = s.v := rfl
@[simp] theorem State.consumeDraw_i (s : State) : (s.consumeDraw).i = s.i := rfl
@[simp] theorem State.consumeDraw_pc (s : State) : (s.consumeDraw).pc = s.pc := rfl
@[simp] theorem State.consumeDraw_sp (s : State) : (s.consumeDraw).sp = s.sp := rfl
@[simp] theorem State.consumeDraw_stack (s : State) : (s.consumeDraw).stack = s.stack := rfl
@[simp] theorem State.consumeDraw_dt (s : State) : (s.consumeDraw).dt = s.dt := rfl
@[simp] theorem State.consumeDraw_st (s : State) : (s.consumeDraw).st = s.st := rfl
@[simp] theorem State.consumeDraw_mem (s : State) : (s.consumeDraw).mem = s.mem := rfl
@[simp] theorem State.consumeDraw_fb (s : State) : (s.consumeDraw).fb = s.fb := rfl
@[simp] theorem State.consumeDraw_keys (s : State) : (s.consumeDraw).keys = s.keys := rfl
@[simp] theorem State.consumeDraw_mode (s : State) : (s.consumeDraw).mode = s.mode := rfl
@[simp] theorem State.consumeDraw_config (s : State) : (s.consumeDraw).config = s.config := rfl
@[simp] theorem State.consumeDraw_reg (s : State) (r : Nibble) : (s.consumeDraw).reg r = s.reg r := rfl
@[simp] theorem State.consumeDraw_byteAt (s : State) (a : Nat) : (s.consumeDraw).byteAt a = s.byteAt a := rfl

@[simp] theorem State.advancePc_pc (s : State) : s.advancePc.pc = s.pc + 2 := rfl
@[simp] theorem State.consumeDraw_draws (s : State) : s.consumeDraw.draws = s.draws + 1 := rfl

/-! ### Registers read after a write (R20) -/

@[simp] theorem State.reg_setReg_self (s : State) (x : Nibble) (b : Byte) : (s.setReg x b).reg x = b := by
  simp [State.reg, State.setReg]

theorem State.reg_setReg_of_ne (s : State) {x r : Nibble} (b : Byte) (h : r ≠ x) : (s.setReg x b).reg r = s.reg r := by
  have hne : x.toNat ≠ r.toNat := fun e => h (BitVec.eq_of_toNat_eq e.symm)
  simp [State.reg, State.setReg, Vector.getElem_set_ne, hne]

theorem State.reg_setReg (s : State) (x r : Nibble) (b : Byte) :
    (s.setReg x b).reg r = if r = x then b else s.reg r := by
  split
  · next h => subst h; simp
  · next h => exact s.reg_setReg_of_ne b h

/-- VF ends as the flag, whatever the destination is (R173). -/
@[simp] theorem State.setRegFlag_reg_flag (s : State) (x : Nibble) (r fl : Byte) :
    (s.setRegFlag x r fl).reg 0xF = fl := by
  simp [State.setRegFlag]

theorem State.setRegFlag_reg_of_ne (s : State) (x r : Nibble) (b fl : Byte) (h : r ≠ 0xF) :
    (s.setRegFlag x b fl).reg r = if r = x then b else s.reg r := by
  rw [State.setRegFlag, State.reg_setReg_of_ne _ _ h, State.reg_setReg]

theorem State.loadRegs_reg (s : State) (bs : List Byte) (r : Nibble) :
    (s.loadRegs bs).reg r = if h : r.toNat < bs.length then bs[r.toNat] else s.reg r := by
  simp [State.reg, State.loadRegs]

/-- A skip changes nothing but `PC` (R148). -/
theorem State.skipIf_eq (s : State) (c : Bool) : s.skipIf c = s.setPc (if c then s.pc + 2 else s.pc) := by
  cases c <;> rfl

end Sys2Proof.Machine
end

