-- ==== Sys2Proof/Laws/Memory.lean ====
section
/-! SUPPORT. Memory: every operation keeps the canonical form, a read after a write, and the bounds check. -/

namespace Sys2Proof.Machine

/-! ### The canonical form -/

theorem Memory.wf_nil (c : Config) : Memory.wf c [] := by simp [Memory.wf]

theorem Memory.wf_cons {c : Config} {p : Host.Cell} {m : Memory} :
    Memory.wf c (p :: m) ↔
      (p.1 < 4096 ∧ p.2 ≠ freshByte c p.1) ∧ (∀ q ∈ m, p.1 < q.1) ∧ Memory.wf c m := by
  simp only [Memory.wf, List.pairwise_cons, List.forall_mem_cons]; tauto

/-- A cell in front of a memory whose addresses are all above it. -/
theorem Memory.wf_cell_append {c : Config} {a : Nat} {b : Byte} {m : Memory} (ha : a < 4096)
    (hlt : ∀ q ∈ m, a < q.1) (h : Memory.wf c m) : Memory.wf c (Memory.cell c a b ++ m) := by
  by_cases hb : b = freshByte c a
  · simpa [Memory.cell, hb] using h
  · rw [Memory.cell, if_neg hb, List.singleton_append, Memory.wf_cons]
    exact ⟨⟨ha, hb⟩, hlt, h⟩

/-- Where the entries after a write come from. -/
theorem Memory.mem_write {c : Config} {m : Memory} {a : Nat} {b : Byte} {q : Host.Cell}
    (hq : q ∈ Memory.write c m a b) : q.1 = a ∨ q ∈ m := by
  have hcell : ∀ q ∈ Memory.cell c a b, q.1 = a := by
    intro q hq; unfold Memory.cell at hq; split at hq <;> simp_all
  induction m with
  | nil => exact .inl (hcell q hq)
  | cons p m ih =>
    obtain ⟨k, d⟩ := p
    simp only [Memory.write] at hq
    split at hq
    · rcases List.mem_append.1 hq with h | h
      · exact .inl (hcell q h)
      · exact .inr h
    · split at hq
      · rcases List.mem_append.1 hq with h | h
        · exact .inl (hcell q h)
        · exact .inr (List.mem_cons_of_mem _ h)
      · rcases List.mem_cons.1 hq with h | h
        · exact .inr (h ▸ List.mem_cons_self)
        · exact (ih h).imp id (List.mem_cons_of_mem _)

theorem Memory.write_wf {c : Config} {m : Memory} {a : Nat} (b : Byte) (ha : a < 4096) (h : m.wf c) :
    (Memory.write c m a b).wf c := by
  induction m with
  | nil => simpa [Memory.write] using Memory.wf_cell_append (b := b) (m := []) ha (by simp) h
  | cons p m ih =>
    obtain ⟨k, d⟩ := p
    obtain ⟨hp, hlt, hm⟩ := Memory.wf_cons.1 h
    simp only [Memory.write]
    split
    · next hak =>
      refine Memory.wf_cell_append ha ?_ h
      rintro q hq
      rcases List.mem_cons.1 hq with rfl | hq
      · exact hak
      · exact hak.trans (hlt q hq)
    · split
      · next hak => exact Memory.wf_cell_append ha (fun q hq => hak ▸ hlt q hq) hm
      · next h1 h2 =>
        refine Memory.wf_cons.2 ⟨hp, fun q hq => ?_, ih hm⟩
        rcases Memory.mem_write hq with h | h
        · simp only; omega
        · exact hlt q h

theorem Memory.writeList_wf {c : Config} {m : Memory} {a : Nat} {bs : List Byte} (ha : a + bs.length ≤ 4096)
    (h : m.wf c) : (Memory.writeList c m a bs).wf c := by
  induction bs generalizing m a with
  | nil => exact h
  | cons b bs ih =>
    rw [List.length_cons] at ha
    exact ih (by omega) (Memory.write_wf b (by omega) h)

/-! ### Reading after a write -/

theorem Memory.lookup_eq_none {m : Memory} {a : Nat} (h : ∀ q ∈ m, q.1 ≠ a) : m.lookup a = none := by
  induction m with
  | nil => rfl
  | cons p m ih =>
    obtain ⟨k, d⟩ := p
    have hk : k ≠ a := h (k, d) List.mem_cons_self
    simpa [Memory.lookup, hk] using ih fun q hq => h q (List.mem_cons_of_mem _ hq)

/-- The written cell in front of cells at other addresses reads as the written byte. -/
theorem Memory.read_cell_append {c : Config} {a : Nat} {b : Byte} {m : Memory} (h : ∀ q ∈ m, q.1 ≠ a) :
    Memory.read c (Memory.cell c a b ++ m) a = b := by
  by_cases hb : b = freshByte c a
  · simp [Memory.cell, hb, Memory.read, Memory.lookup_eq_none h]
  · simp [Memory.cell, hb, Memory.read, Memory.lookup]

theorem Memory.read_cell_append_of_ne {c : Config} {a x : Nat} {b : Byte} {m : Memory} (h : x ≠ a) :
    Memory.read c (Memory.cell c a b ++ m) x = Memory.read c m x := by
  by_cases hb : b = freshByte c a
  · simp [Memory.cell, hb]
  · simp [Memory.cell, hb, Memory.read, Memory.lookup, Ne.symm h]

theorem Memory.read_cons (c : Config) (k : Nat) (d : Byte) (m : Memory) (x : Nat) :
    Memory.read c ((k, d) :: m) x = if k = x then d else Memory.read c m x := by
  simp only [Memory.read, Memory.lookup]; split <;> rfl

/-- A read of the written address gives the written byte (R69). -/
theorem Memory.read_write_self {c : Config} {m : Memory} (a : Nat) (b : Byte) (h : m.wf c) :
    Memory.read c (Memory.write c m a b) a = b := by
  induction m with
  | nil => simpa [Memory.write] using Memory.read_cell_append (c := c) (b := b) (m := []) (by simp)
  | cons p m ih =>
    obtain ⟨k, d⟩ := p
    obtain ⟨hp, hlt, hm⟩ := Memory.wf_cons.1 h
    simp only [Memory.write]
    split
    · next hak =>
      refine Memory.read_cell_append fun q hq => ?_
      rcases List.mem_cons.1 hq with rfl | hq
      · simp only; omega
      · have := hlt q hq; simp only at this; omega
    · split
      · next hak => exact Memory.read_cell_append fun q hq => by have := hlt q hq; simp only at this; omega
      · next h1 h2 => rw [Memory.read_cons, if_neg (Ne.symm h2), ih hm]

/-- A write leaves every other address alone (R69). -/
theorem Memory.read_write_of_ne {c : Config} {m : Memory} {a x : Nat} (b : Byte) (hx : x ≠ a) :
    Memory.read c (Memory.write c m a b) x = Memory.read c m x := by
  induction m with
  | nil => simpa [Memory.write] using Memory.read_cell_append_of_ne (c := c) (b := b) (m := []) hx
  | cons p m ih =>
    obtain ⟨k, d⟩ := p
    simp only [Memory.write]
    split
    · exact Memory.read_cell_append_of_ne hx
    · split
      · next hak => rw [Memory.read_cell_append_of_ne hx, Memory.read_cons, if_neg (by omega)]
      · rw [Memory.read_cons, Memory.read_cons, ih]

/-- An address outside the written ones reads as before. -/
theorem Memory.read_writeList_outside {c : Config} {m : Memory} {a x : Nat} {bs : List Byte}
    (hx : x < a ∨ a + bs.length ≤ x) : Memory.read c (Memory.writeList c m a bs) x = Memory.read c m x := by
  induction bs generalizing m a with
  | nil => rfl
  | cons b bs ih =>
    rw [List.length_cons] at hx
    rw [Memory.writeList, ih (by omega), Memory.read_write_of_ne b (by omega)]

/-- The `k`-th written address reads as the `k`-th byte. -/
theorem Memory.read_writeList_inside {c : Config} {m : Memory} {a k : Nat} {bs : List Byte}
    (ha : a + bs.length ≤ 4096) (h : m.wf c) (hk : k < bs.length) :
    Memory.read c (Memory.writeList c m a bs) (a + k) = bs[k] := by
  induction bs generalizing m a k with
  | nil => simp at hk
  | cons b bs ih =>
    rw [List.length_cons] at ha hk
    cases k with
    | zero =>
      rw [Memory.writeList, Memory.read_writeList_outside (by omega)]
      simpa using Memory.read_write_self a b h
    | succ k =>
      have := ih (m := Memory.write c m a b) (a := a + 1) (k := k) (by omega)
        (Memory.write_wf b (by omega) h) (by omega)
      rw [Memory.writeList, show a + (k + 1) = a + 1 + k by omega, this, List.getElem_cons_succ]

/-! ### The same of the state -/

theorem State.storeBytes_byteAt_outside (s : State) {a x : Nat} {bs : List Byte}
    (hx : x < a ∨ a + bs.length ≤ x) : (s.storeBytes a bs).byteAt x = s.byteAt x :=
  Memory.read_writeList_outside hx

theorem State.storeBytes_byteAt_inside (s : State) {a k : Nat} {bs : List Byte} (ha : a + bs.length ≤ 4096)
    (h : s.mem.wf s.config) (hk : k < bs.length) : (s.storeBytes a bs).byteAt (a + k) = bs[k] :=
  Memory.read_writeList_inside ha h hk

theorem State.storeBytes_wf (s : State) {a : Nat} {bs : List Byte} (ha : a + bs.length ≤ 4096)
    (h : s.mem.wf s.config) : (s.storeBytes a bs).mem.wf (s.storeBytes a bs).config :=
  Memory.writeList_wf ha h

@[simp] theorem State.bytesAt_length (s : State) (a n : Nat) : (s.bytesAt a n).length = n := by
  simp [State.bytesAt]

@[simp] theorem State.bytesAt_getElem (s : State) (a n k : Nat) (h : k < (s.bytesAt a n).length) :
    (s.bytesAt a n)[k] = s.byteAt (a + k) := by
  simp [State.bytesAt]

@[simp] theorem State.storedRegs_length (s : State) (x : Nibble) : (s.storedRegs x).length = x.toNat + 1 := by
  have := x.isLt
  simp only [State.storedRegs, List.length_take, Vector.length_toList]; omega

theorem State.storedRegs_getElem (s : State) (x : Nibble) (k : Nat) (h : k < (s.storedRegs x).length) :
    (s.storedRegs x)[k] = s.reg (BitVec.ofNat 4 k) := by
  have hk : k < 16 := by have := x.isLt; simp at h; omega
  simp [State.storedRegs, State.reg, Nat.mod_eq_of_lt hk]

/-! ### The bounds check (R63, R67) -/

/-- The check passes exactly when every one of the `n` bytes exists. -/
theorem rangeFault_eq_none {a n : Nat} : rangeFault a n = none ↔ n = 0 ∨ a + n ≤ 4096 := by
  simp only [rangeFault, ite_eq_right_iff, reduceCtorEq, imp_false]; omega

/-- The check answers the lowest address above 4095 among the `n`. -/
theorem rangeFault_eq_some {a n bad : Nat} : rangeFault a n = some bad ↔ n ≠ 0 ∧ 4096 < a + n ∧ bad = max a 4096 := by
  simp only [rangeFault]
  split
  · simp only [Option.some.injEq]; omega
  · simp only [reduceCtorEq, false_iff]; omega

theorem guardRange_of_fits {a n : Nat} {k : Answer} (h : n = 0 ∨ a + n ≤ 4096) : guardRange a n k = k := by
  simp [guardRange, rangeFault_eq_none.2 h]

theorem guardRange_of_not_fits {a n : Nat} {k : Answer} (h0 : n ≠ 0) (h : 4096 < a + n) :
    guardRange a n k = .fault (.memoryFault (max a 4096)) := by
  simp [guardRange, rangeFault_eq_some.2 ⟨h0, h, rfl⟩, raise]

/-- Everything a bounds check can do. -/
theorem guardRange_cases (a n : Nat) (k : Answer) :
    ((n = 0 ∨ a + n ≤ 4096) ∧ guardRange a n k = k) ∨
    (n ≠ 0 ∧ 4096 < a + n ∧ guardRange a n k = .fault (.memoryFault (max a 4096))) := by
  by_cases h : n = 0 ∨ a + n ≤ 4096
  · exact .inl ⟨h, guardRange_of_fits h⟩
  · push Not at h
    exact .inr ⟨h.1, h.2, guardRange_of_not_fits h.1 h.2⟩

theorem guardRange_next {a n : Nat} {t u : State} :
    guardRange a n (.next t) = .next u ↔ (n = 0 ∨ a + n ≤ 4096) ∧ u = t := by
  rcases guardRange_cases a n (.next t) with ⟨h, e⟩ | ⟨h0, h, e⟩
  · rw [e, Host.Outcome.next.injEq]; exact ⟨fun q => ⟨h, q.symm⟩, fun q => q.2.symm⟩
  · rw [e]; simp only [reduceCtorEq, false_iff]; omega

end Sys2Proof.Machine
end

