-- ==== Sys2Proof/Laws/Display.lean ====
section
/-! SUPPORT. The display pixel by pixel: clearing, one sprite row, one sprite byte drawn (R210 to R214). -/

namespace Sys2Proof.Machine

@[simp] theorem clearDisplay_pixel (px : Fin 64) (py : Fin 32) : clearDisplay.pixel px py = false := by
  simp [Display.pixel, clearDisplay]

/-- Which columns of a row a sprite byte flips: bit 7 at the start column, bit 0 seven columns on (R214), no column
above 63 (R212). -/
theorem spriteRow_getLsbD (x0 : Nat) (b : Byte) (px : Nat) :
    (spriteRow x0 b).getLsbD px = (decide (px < 64 ∧ x0 ≤ px ∧ px < x0 + 8) && b.getLsbD (7 - (px - x0))) := by
  simp only [spriteRow, BitVec.getLsbD_shiftLeft, BitVec.getLsbD_setWidth, BitVec.getLsbD_reverse, BitVec.getMsbD]
  by_cases h1 : px < 64 <;> by_cases h2 : x0 ≤ px <;> by_cases h3 : px < x0 + 8
  all_goals simp [h1, h2, h3]
  · have : px - x0 < 8 := by omega
    have h4 : px - x0 < 64 := by omega
    simp [this, h4, h2]
  all_goals intros; omega

/-- A sprite byte 0 flips nothing (R211). -/
@[simp] theorem spriteRow_zero (x0 : Nat) : spriteRow x0 0#8 = 0#64 := by
  apply BitVec.eq_of_getLsbD_eq
  intro px _
  rw [spriteRow_getLsbD]
  simp

/-- One sprite byte drawn: the pixels of its row are XORed with it, every other row is as before (R211). -/
theorem drawRow_pixel (x0 y : Nat) (b : Byte) (d : Display) (px : Fin 64) (py : Fin 32) :
    (drawRow x0 y b d).1.pixel px py =
      (d.pixel px py ^^ (decide (py.val = y) && (spriteRow x0 b).getLsbD px.val)) := by
  unfold drawRow
  split
  · next h =>
    by_cases hy : py.val = y
    · subst hy; simp [Display.pixel]
    · simp [Display.pixel, Vector.getElem_set_ne, Ne.symm hy, hy]
  · next h =>
    have : py.val ≠ y := by omega
    simp [this]

/-- One sprite byte collides exactly when one of its bits meets a pixel that is 1 (R213). -/
theorem drawRow_collides (x0 y : Nat) (b : Byte) (d : Display) :
    (drawRow x0 y b d).2 = true ↔
      ∃ (px : Fin 64) (py : Fin 32), py.val = y ∧ d.pixel px py = true ∧ (spriteRow x0 b).getLsbD px.val = true := by
  unfold drawRow
  split
  · next h =>
    simp only [bne_iff_ne, ne_eq, Display.pixel]
    constructor
    · intro hne
      obtain ⟨k, hk⟩ : ∃ k, (d[y] &&& spriteRow x0 b).getLsbD k = true := by
        by_contra hall
        push Not at hall
        exact hne (BitVec.eq_of_getLsbD_eq fun k _ => by simpa using hall k)
      have hk64 : k < 64 := by
        by_contra hge
        rw [BitVec.getLsbD_of_ge _ _ (by omega)] at hk; simp at hk
      rw [BitVec.getLsbD_and, Bool.and_eq_true] at hk
      exact ⟨⟨k, hk64⟩, ⟨y, h⟩, rfl, hk.1, hk.2⟩
    · rintro ⟨px, py, rfl, h1, h2⟩ h0
      have hbit : (d[py.val] &&& spriteRow x0 b).getLsbD px.val = true := by
        rw [BitVec.getLsbD_and, Bool.and_eq_true]; exact ⟨h1, h2⟩
      rw [h0] at hbit
      simp at hbit
  · next h =>
    simp only [Bool.false_eq_true, false_iff, not_exists]
    rintro px py ⟨rfl, -⟩
    exact h py.isLt

/-! ### Several sprite bytes -/

/-- Sprite bytes drawn on rows `y` on: each pixel is XORed with the bit of the byte of its own row, if that row has
one (R211, R212). -/
theorem drawRows_pixel (x0 y : Nat) (bs : List Byte) (d : Display) (px : Fin 64) (py : Fin 32) :
    (drawRows x0 y bs d).1.pixel px py =
      (d.pixel px py ^^
        (decide (y ≤ py.val) && (spriteRow x0 (bs.getD (py.val - y) 0)).getLsbD px.val)) := by
  induction bs generalizing y d with
  | nil => simp [drawRows]
  | cons b bs ih =>
    simp only [drawRows, ih, drawRow_pixel]
    rcases Nat.lt_trichotomy py.val y with h | h | h
    · simp [show ¬ y ≤ py.val by omega, show ¬ y + 1 ≤ py.val by omega, show py.val ≠ y by omega]
    · simp [h]
    · rw [show py.val - y = (py.val - (y + 1)) + 1 by omega, List.getD_cons_succ]
      simp [show y ≤ py.val by omega, show y + 1 ≤ py.val by omega, show py.val ≠ y by omega]

/-- Sprite bytes collide exactly when one of their bits meets a pixel that is 1 (R213). -/
theorem drawRows_collides (x0 y : Nat) (bs : List Byte) (d : Display) :
    (drawRows x0 y bs d).2 = true ↔
      ∃ (px : Fin 64) (py : Fin 32), y ≤ py.val ∧ d.pixel px py = true ∧
        (spriteRow x0 (bs.getD (py.val - y) 0)).getLsbD px.val = true := by
  induction bs generalizing y d with
  | nil => simp [drawRows]
  | cons b bs ih =>
    simp only [drawRows, Bool.or_eq_true, ih, drawRow_collides, drawRow_pixel]
    constructor
    · rintro (⟨px, py, hy, h1, h2⟩ | ⟨px, py, hy, h1, h2⟩)
      · exact ⟨px, py, by omega, h1, by simpa [hy] using h2⟩
      · refine ⟨px, py, by omega, by simpa [show py.val ≠ y by omega] using h1, ?_⟩
        rwa [show py.val - y = (py.val - (y + 1)) + 1 by omega, List.getD_cons_succ]
    · rintro ⟨px, py, hy, h1, h2⟩
      by_cases hyy : py.val = y
      · exact .inl ⟨px, py, hyy, h1, by simpa [hyy] using h2⟩
      · refine .inr ⟨px, py, by omega, by simpa [hyy] using h1, ?_⟩
        rwa [show py.val - y = (py.val - (y + 1)) + 1 by omega, List.getD_cons_succ] at h2

end Sys2Proof.Machine
end

