-- ==== Sys2Proof/Laws/Machine.lean ====
section
/-! SUPPORT. What the shared operations and a step can do, said once: the stack, the handlers, the cycle. -/

namespace Sys2Proof.Machine

/-! ### The stack (R29) -/

theorem State.push_of_lt {s : State} (a : Word) (h : s.sp.val < 16) :
    s.push a = some (s.setStack ⟨s.sp.val + 1, by omega⟩ (s.stack.set s.sp.val a h)) := by
  simp [State.push, h]

theorem State.push_eq_none {s : State} {a : Word} : s.push a = none ↔ s.sp.val = 16 := by
  have := s.sp.isLt
  unfold State.push
  split
  · simp only [reduceCtorEq, false_iff]; omega
  · simp only [true_iff]; omega

theorem State.pop_of_pos {s : State} (h : 0 < s.sp.val) :
    s.pop = some (s.stack[s.sp.val - 1]'(by omega), s.setStack ⟨s.sp.val - 1, by omega⟩ s.stack) := by
  simp [State.pop, h]

theorem State.pop_eq_none {s : State} : s.pop = none ↔ s.sp.val = 0 := by
  unfold State.pop
  split
  · simp only [reduceCtorEq, false_iff]; omega
  · simp only [true_iff]; omega

/-- Everything CALL can do (R142). -/
theorem execCall_cases (nnn : Addr12) (s : State) :
    (∃ h : s.sp.val < 16, execCall nnn s =
      .next ((s.setStack ⟨s.sp.val + 1, by omega⟩ (s.stack.set s.sp.val s.pc h)).setPc (zextAddr nnn))) ∨
    (s.sp.val = 16 ∧ execCall nnn s = .fault .stackOverflow) := by
  by_cases h : s.sp.val < 16
  · exact .inl ⟨h, by simp [execCall, State.push_of_lt _ h]⟩
  · have h16 : s.sp.val = 16 := by omega
    exact .inr ⟨h16, by simp [execCall, State.push_eq_none.2 h16, raise]⟩

/-- Everything RET can do (R140). -/
theorem execRet_cases (s : State) :
    (∃ h : 0 < s.sp.val, execRet s =
      .next ((s.setStack ⟨s.sp.val - 1, by omega⟩ s.stack).setPc (s.stack[s.sp.val - 1]'(by omega)))) ∨
    (s.sp.val = 0 ∧ execRet s = .fault .stackUnderflow) := by
  by_cases h : 0 < s.sp.val
  · exact .inl ⟨h, by simp [execRet, State.pop_of_pos h]⟩
  · have h0 : s.sp.val = 0 := by omega
    exact .inr ⟨h0, by simp [execRet, State.pop_eq_none.2 h0, raise]⟩

/-! ### The random load (R171) -/

@[simp] theorem State.loadMaskedRandom_eq (s : State) (x : Nibble) (kk r : Byte) :
    s.loadMaskedRandom x kk r = s.setReg x (r &&& kk) := rfl

/-! ### The fetch (R122) -/

theorem State.fetchFault_eq_none {s : State} : s.fetchFault = none ↔ s.pc.toNat ≤ 4094 := by
  simp only [State.fetchFault, rangeFault_eq_none]; omega

theorem State.fetchFault_of_lt {s : State} (h : 4094 < s.pc.toNat) :
    s.fetchFault = some (max s.pc.toNat 4096) :=
  rangeFault_eq_some.2 ⟨by omega, by omega, rfl⟩

/-! ### The cycle (R120) -/

theorem cycle_of_waiting {s : State} {xw : Nibble} {prev : Keys} (h : s.mode = .waitingForKey xw prev) :
    cycle s = ⟨.ok, s.waitStep xw prev⟩ := by
  simp [cycle, h]

theorem cycle_of_fetchFault {s : State} (hm : s.mode = .running) (h : 4094 < s.pc.toNat) :
    cycle s = ⟨.fault (.memoryFault (max s.pc.toNat 4096)), s⟩ := by
  simp [cycle, hm, runningStep, State.fetchFault_of_lt h]

theorem cycle_of_fetch {s : State} (hm : s.mode = .running) (h : s.pc.toNat ≤ 4094) :
    cycle s = runOpcode s.fetchedOpcode s.advancePc := by
  simp [cycle, hm, runningStep, State.fetchFault_eq_none.2 h]

theorem runOpcode_of_decode {op : Word} {i : Instr} (s : State) (h : decode op = some i) :
    runOpcode op s = runHandler i s := by
  simp [runOpcode, h]

theorem runOpcode_of_unknown {op : Word} (s : State) (h : decode op = none) : runOpcode op s = unknownOpcode op s := by
  simp [runOpcode, h]

@[simp] theorem runHandler_outcome (i : Instr) (s : State) : (runHandler i s).outcome = exec i s := by
  unfold runHandler; split <;> simp_all [StepReturn.outcome]

theorem unknownOpcode_after (op : Word) (s : State) : (unknownOpcode op s).after = s := by
  unfold unknownOpcode; split <;> rfl

/-- Everything an unknown opcode can do (R125). -/
theorem unknownOpcode_cases (op : Word) (s : State) :
    (s.config.unknownOpcodePolicy = .continuing ∧ unknownOpcode op s = ⟨.report op, s⟩) ∨
    (s.config.unknownOpcodePolicy = .halting ∧ unknownOpcode op s = ⟨.fault (.unknownOpcode op), s⟩) := by
  unfold unknownOpcode; split <;> simp_all

/-- Everything a handler can do. -/
theorem runHandler_cases (i : Instr) (s : State) :
    (∃ t, exec i s = .next t ∧ runHandler i s = ⟨.ok, t⟩) ∨
    (∃ f, exec i s = .fault f ∧ runHandler i s = ⟨.fault f, s⟩) ∨
    (∃ r, exec i s = .refused r ∧ runHandler i s = ⟨.refused r, s⟩) := by
  unfold runHandler; cases h : exec i s <;> simp

/-- Everything a step can do (R120, R131). -/
theorem cycle_cases (s : State) :
    (∃ xw prev, s.mode = .waitingForKey xw prev ∧ cycle s = ⟨.ok, s.waitStep xw prev⟩) ∨
    (s.mode = .running ∧ 4094 < s.pc.toNat ∧ cycle s = ⟨.fault (.memoryFault (max s.pc.toNat 4096)), s⟩) ∨
    (s.mode = .running ∧ s.pc.toNat ≤ 4094 ∧ decode s.fetchedOpcode = none ∧
      cycle s = unknownOpcode s.fetchedOpcode s.advancePc) ∨
    (∃ i, s.mode = .running ∧ s.pc.toNat ≤ 4094 ∧ decode s.fetchedOpcode = some i ∧
      cycle s = runHandler i s.advancePc) := by
  cases hm : s.mode with
  | waitingForKey xw prev => exact .inl ⟨xw, prev, rfl, cycle_of_waiting hm⟩
  | running =>
    by_cases hp : s.pc.toNat ≤ 4094
    · cases hd : decode s.fetchedOpcode with
      | none => exact .inr (.inr (.inl ⟨rfl, hp, rfl, by rw [cycle_of_fetch hm hp, runOpcode_of_unknown _ hd]⟩))
      | some i =>
        exact .inr (.inr (.inr ⟨i, rfl, hp, rfl, by rw [cycle_of_fetch hm hp, runOpcode_of_decode _ hd]⟩))
    · exact .inr (.inl ⟨rfl, by omega, cycle_of_fetchFault hm (by omega)⟩)

end Sys2Proof.Machine
end

