-- ==== Sys2Proof/Laws/PerInstr.lean ====
section
/-! SUPPORT. Facts about every instruction as syntax, one lemma a constructor: its opcode satisfies its own row of
the opcode table (R95, R100). -/

namespace Sys2Proof.Laws.EncodesItsRow

open Sys2Proof

/-- The opcode of the instruction satisfies the row of R95 that the instruction belongs to. -/
def Statement (i : Instr) : Prop := i.row.accepts (encode i)

/-- An opcode satisfies a row with mask 0xF000 if its family is the row's. -/
theorem of_family {i : Instr} {f : Nibble} (hr : i.row = ⟨formatA f 0, 0xF000⟩) (hf : opFam (encode i) = f) :
    Statement i := by
  rw [Statement, OpcodeRow.accepts, hr, and_F000, hf]

/-- An opcode satisfies a row with mask 0xF00F if its family and low nibble are the row's. -/
theorem of_low_nibble {i : Instr} {f n : Nibble} (hr : i.row = ⟨formatXYN f 0 0 n, 0xF00F⟩)
    (hf : opFam (encode i) = f) (hn : opN (encode i) = n) : Statement i := by
  rw [Statement, OpcodeRow.accepts, hr, and_F00F, hf, hn]

/-- An opcode satisfies a row with mask 0xF0FF if its family and low byte are the row's. -/
theorem of_low_byte {i : Instr} {f : Nibble} {sel : Byte} (hr : i.row = ⟨formatXS f 0 sel, 0xF0FF⟩)
    (hf : opFam (encode i) = f) (hk : opKk (encode i) = sel) : Statement i := by
  rw [Statement, OpcodeRow.accepts, hr, and_F0FF, hf, hk]

theorem cls : Statement .cls := rfl

theorem ret : Statement .ret := rfl

theorem jp (nnn : Addr12) : Statement (.jp nnn) := of_family rfl (opFam_formatA ..)

theorem call (nnn : Addr12) : Statement (.call nnn) := of_family rfl (opFam_formatA ..)

theorem seVxKk (x : Nibble) (kk : Byte) : Statement (.seVxKk x kk) := of_family rfl (opFam_formatXK ..)

theorem sneVxKk (x : Nibble) (kk : Byte) : Statement (.sneVxKk x kk) := of_family rfl (opFam_formatXK ..)

theorem seVxVy (x y : Nibble) : Statement (.seVxVy x y) := of_low_nibble rfl (opFam_formatXYN ..) (opN_formatXYN ..)

theorem sneVxVy (x y : Nibble) : Statement (.sneVxVy x y) := of_low_nibble rfl (opFam_formatXYN ..) (opN_formatXYN ..)

theorem ldVxKk (x : Nibble) (kk : Byte) : Statement (.ldVxKk x kk) := of_family rfl (opFam_formatXK ..)

theorem addVxKk (x : Nibble) (kk : Byte) : Statement (.addVxKk x kk) := of_family rfl (opFam_formatXK ..)

theorem ldVxVy (x y : Nibble) : Statement (.ldVxVy x y) := of_low_nibble rfl (opFam_formatXYN ..) (opN_formatXYN ..)

theorem orVxVy (x y : Nibble) : Statement (.orVxVy x y) := of_low_nibble rfl (opFam_formatXYN ..) (opN_formatXYN ..)

theorem andVxVy (x y : Nibble) : Statement (.andVxVy x y) := of_low_nibble rfl (opFam_formatXYN ..) (opN_formatXYN ..)

theorem xorVxVy (x y : Nibble) : Statement (.xorVxVy x y) := of_low_nibble rfl (opFam_formatXYN ..) (opN_formatXYN ..)

theorem addVxVy (x y : Nibble) : Statement (.addVxVy x y) := of_low_nibble rfl (opFam_formatXYN ..) (opN_formatXYN ..)

theorem subVxVy (x y : Nibble) : Statement (.subVxVy x y) := of_low_nibble rfl (opFam_formatXYN ..) (opN_formatXYN ..)

theorem shrVx (x y : Nibble) : Statement (.shrVx x y) := of_low_nibble rfl (opFam_formatXYN ..) (opN_formatXYN ..)

theorem subnVxVy (x y : Nibble) : Statement (.subnVxVy x y) := of_low_nibble rfl (opFam_formatXYN ..) (opN_formatXYN ..)

theorem shlVx (x y : Nibble) : Statement (.shlVx x y) := of_low_nibble rfl (opFam_formatXYN ..) (opN_formatXYN ..)

theorem ldINnn (nnn : Addr12) : Statement (.ldINnn nnn) := of_family rfl (opFam_formatA ..)

theorem jpV0 (nnn : Addr12) : Statement (.jpV0 nnn) := of_family rfl (opFam_formatA ..)

theorem rnd (x : Nibble) (kk : Byte) : Statement (.rnd x kk) := of_family rfl (opFam_formatXK ..)

theorem drw (x y n : Nibble) : Statement (.drw x y n) := of_family rfl (opFam_formatXYN ..)

theorem skp (x : Nibble) : Statement (.skp x) := of_low_byte rfl (opFam_formatXS ..) (opKk_formatXS ..)

theorem sknp (x : Nibble) : Statement (.sknp x) := of_low_byte rfl (opFam_formatXS ..) (opKk_formatXS ..)

theorem ldVxDt (x : Nibble) : Statement (.ldVxDt x) := of_low_byte rfl (opFam_formatXS ..) (opKk_formatXS ..)

theorem ldVxK (x : Nibble) : Statement (.ldVxK x) := of_low_byte rfl (opFam_formatXS ..) (opKk_formatXS ..)

theorem ldDtVx (x : Nibble) : Statement (.ldDtVx x) := of_low_byte rfl (opFam_formatXS ..) (opKk_formatXS ..)

theorem ldStVx (x : Nibble) : Statement (.ldStVx x) := of_low_byte rfl (opFam_formatXS ..) (opKk_formatXS ..)

theorem addIVx (x : Nibble) : Statement (.addIVx x) := of_low_byte rfl (opFam_formatXS ..) (opKk_formatXS ..)

theorem ldFVx (x : Nibble) : Statement (.ldFVx x) := of_low_byte rfl (opFam_formatXS ..) (opKk_formatXS ..)

theorem ldBVx (x : Nibble) : Statement (.ldBVx x) := of_low_byte rfl (opFam_formatXS ..) (opKk_formatXS ..)

theorem ldMemVx (x : Nibble) : Statement (.ldMemVx x) := of_low_byte rfl (opFam_formatXS ..) (opKk_formatXS ..)

theorem ldVxMem (x : Nibble) : Statement (.ldVxMem x) := of_low_byte rfl (opFam_formatXS ..) (opKk_formatXS ..)

end Sys2Proof.Laws.EncodesItsRow
end

