-- ==== Sys2Proof/Tests/Slice0.lean ====
section
/-! SUPPORT. The model's own tests. Expected results are the vectors of spec/95_test_vectors.md, whose ids stand in the
comments, and words written out from the encodings of spec/30_encoding.md. The last part shows for each statement that
has hypotheses concrete values that meet them all. -/

namespace Sys2Proof.Tests

open Sys2Proof Sys2Proof.Machine

/-! ### Decoding: one word for each row of the opcode table (R92, R95) -/

theorem test_decode_control_transfer :
    decode 0x00EE = some .ret ∧ decode 0x1ABC = some (.jp 0xABC) ∧ decode 0x2300 = some (.call 0x300) ∧
    decode 0x3310 = some (.seVxKk 3 0x10) ∧ decode 0x43F0 = some (.sneVxKk 3 0xF0) ∧
    decode 0x5120 = some (.seVxVy 1 2) ∧ decode 0x9AB0 = some (.sneVxVy 0xA 0xB) ∧
    decode 0xBFFF = some (.jpV0 0xFFF) := by decide

theorem test_decode_load_and_logic :
    decode 0x6C7E = some (.ldVxKk 0xC 0x7E) ∧ decode 0x7F01 = some (.addVxKk 0xF 0x01) ∧
    decode 0x8DC0 = some (.ldVxVy 0xD 0xC) ∧ decode 0x8121 = some (.orVxVy 1 2) ∧
    decode 0x8122 = some (.andVxVy 1 2) ∧ decode 0x8123 = some (.xorVxVy 1 2) := by decide

theorem test_decode_arithmetic :
    decode 0x81F4 = some (.addVxVy 1 0xF) ∧ decode 0x8125 = some (.subVxVy 1 2) ∧
    decode 0x8126 = some (.shrVx 1 2) ∧ decode 0x8F17 = some (.subnVxVy 0xF 1) ∧
    decode 0x812E = some (.shlVx 1 2) ∧ decode 0xC30F = some (.rnd 3 0x0F) := by decide

theorem test_decode_index_and_memory :
    decode 0xA2F0 = some (.ldINnn 0x2F0) ∧ decode 0xF21E = some (.addIVx 2) ∧ decode 0xF429 = some (.ldFVx 4) ∧
    decode 0xF533 = some (.ldBVx 5) ∧ decode 0xF255 = some (.ldMemVx 2) ∧ decode 0xFF65 = some (.ldVxMem 0xF) := by decide

theorem test_decode_display_keys_timers :
    decode 0x00E0 = some .cls ∧ decode 0xD123 = some (.drw 1 2 3) ∧ decode 0xE19E = some (.skp 1) ∧
    decode 0xE5A1 = some (.sknp 5) ∧ decode 0xF207 = some (.ldVxDt 2) ∧ decode 0xF30A = some (.ldVxK 3) ∧
    decode 0xF115 = some (.ldDtVx 1) ∧ decode 0xF318 = some (.ldStVx 3) := by decide

/-- Opcodes outside the table (R96 to R98; vectors U1 to U19). -/
theorem test_decode_unknown :
    decode 0x0000 = none ∧ decode 0x00DF = none ∧ decode 0x0123 = none ∧ decode 0x00E1 = none ∧ decode 0x5121 = none ∧
    decode 0x8128 = none ∧ decode 0x812F = none ∧ decode 0x9121 = none ∧ decode 0xE19F = none ∧ decode 0xF175 = none ∧
    decode 0xFFFF = none := by decide

/-- Bytes: the first is the high byte (R64), two are taken, fewer are no instruction. -/
theorem test_decode_bytes :
    (match decodeBytes [0xA2, 0xF0, 0x60] with | .ok r => decide (r = (.ldINnn 0x2F0, [0x60])) | .error _ => false) = true ∧
    (match decodeBytes [0xA2] with | .ok _ => false | .error e => decide (e = .truncated)) = true ∧
    (match decodeBytes [0x81, 0x28] with | .ok _ => false | .error e => decide (e = .unknownOpcode 0x8128)) = true ∧
    decodeTableWord 16 0x8124 = some (.addVxVy 1 2) ∧ decodeTableWord 16 0x00FF = none := by decide

/-- The other direction, from the same table. -/
theorem test_encode :
    encode (.call 0x20A) = 0x220A ∧ encode (.shlVx 1 2) = 0x812E ∧ encode (.drw 0 1 3) = 0xD013 ∧
    encodeBytes (.ldMemVx 2) = [0xF2, 0x55] := by decide

/-! ### Well-formedness -/

/-- R6: the font ends inside the reserved region, so FONT_BASE 0x1B0 is the last that is accepted. -/
theorem test_font_base_bound :
    Config.wellFormed { defaultConfig with fontBase := 0x1B0 } ∧
    ¬ Config.wellFormed { defaultConfig with fontBase := 0x1B1 } := by decide

/-- R251: 3584 bytes fit, 3585 do not. -/
theorem test_program_bound :
    programFits (List.replicate 3584 0x01) ∧ ¬ programFits (List.replicate 3585 0x01) := by
  constructor <;> rw [programFits, List.length_replicate, maxProgram]
  omega

theorem test_reset_memory_is_canonical : State.reset.mem.wf State.reset.config := by decide

/-- Memory that lists an address twice, out of order, above 4095, or with its unlisted value is refused. -/
theorem test_memory_form :
    Memory.wf defaultConfig [(0x200, 1), (0x201, 2)] ∧ ¬ Memory.wf defaultConfig [(0x200, 1), (0x200, 2)] ∧
    ¬ Memory.wf defaultConfig [(0x201, 1), (0x200, 2)] ∧ ¬ Memory.wf defaultConfig [(4096, 1)] ∧
    ¬ Memory.wf defaultConfig [(0x050, 0xF0)] ∧ ¬ Memory.wf defaultConfig [(0x200, 0)] := by decide

/-! ### One step each -/

/-- The reset state changed by `f`, with the opcode at `PC`. -/
def start (op : Nat) (f : State → State) : State := (f State.reset).withFetchWord 16 op

/-- One step of `s` goes on, to a state with the property. -/
def stepsWith (s : State) (p : State → Bool) : Bool :=
  match step s with
  | .next t => p t
  | .fault _ => false
  | .refused _ => false

/-- The two states are equal; the 80 font bytes of the configuration alone are not compared, which no test changes. -/
def same (t u : State) : Bool :=
  decide (t.v = u.v ∧ t.i = u.i ∧ t.pc = u.pc ∧ t.sp = u.sp ∧ t.stack = u.stack ∧ t.dt = u.dt ∧ t.st = u.st ∧
    t.mem = u.mem ∧ t.fb = u.fb ∧ t.keys = u.keys ∧ t.mode = u.mode ∧ t.draws = u.draws ∧
    t.config.unknownOpcodePolicy = u.config.unknownOpcodePolicy ∧ t.config.fontBase = u.config.fontBase)

/-- A step of `s` has the result, and leaves the state `t`. -/
def cycles (s : State) (r : StepResult) (t : State) : Bool := decide ((cycle s).result = r) && same (cycle s).after t

/-- One step changes the start state by `g`, and in nothing else. -/
def runs (op : Nat) (f g : State → State) : Bool := stepsWith (start op f) fun t => same t (g (start op f))

/-- One step of the start state with a property of the state after it. -/
def leaves (op : Nat) (f : State → State) (p : State → Bool) : Bool := stepsWith (start op f) p

/-- One step stops with the fault and leaves the start state with `PC` advanced. -/
def stops (op : Nat) (f : State → State) (e : Fault) : Bool :=
  cycles (start op f) (.fault e) ((start op f).setPc ((start op f).pc + 2))

-- T1, T3
theorem test_ret : runs 0x00EE (fun s => (s.setPc 0x210).setStack 1 (s.stack.set 0 0x204))
    (fun s => (s.setPc 0x204).setStack 0 s.stack) = true := by decide
theorem test_ret_underflow : stops 0x00EE id .stackUnderflow = true := by decide
-- T7
theorem test_jp : runs 0x1001 (·.setPc 0x300) (·.setPc 0x001) = true := by decide
-- T9, T10
theorem test_call : runs 0x2300 (fun s => (s.setPc 0xFFE).setStack 15 s.stack)
    (fun s => (s.setPc 0x300).setStack 16 (s.stack.set 15 0x1000)) = true := by decide
theorem test_call_overflow : stops 0x2300 (fun s => s.setStack 16 (s.stack.set 15 0x999)) .stackOverflow = true := by
  decide
-- T11, T12
theorem test_se_vx_kk : runs 0x3310 (·.setReg 3 0x10) (·.setPc 0x204) = true ∧
    runs 0x3310 (·.setReg 3 0x11) (·.setPc 0x202) = true := by decide
-- T14, T15
theorem test_sne_vx_kk : runs 0x4310 (·.setReg 3 0x10) (·.setPc 0x202) = true ∧
    runs 0x4310 (·.setReg 3 0x11) (·.setPc 0x204) = true := by decide
-- T16, T17
theorem test_se_vx_vy : runs 0x5120 (fun s => (s.setReg 1 7).setReg 2 7) (·.setPc 0x204) = true ∧
    runs 0x5120 (fun s => (s.setReg 1 7).setReg 2 8) (·.setPc 0x202) = true := by decide
-- T19, T20
theorem test_sne_vx_vy : runs 0x9120 (fun s => (s.setReg 1 7).setReg 2 8) (·.setPc 0x204) = true ∧
    runs 0x9120 (fun s => (s.setReg 1 7).setReg 2 7) (·.setPc 0x202) = true := by decide
-- T23, T24
theorem test_jp_v0 : runs 0xBFFF (·.setReg 0 0xFF) (·.setPc 0x10FE) = true ∧
    runs 0xB123 (·.setReg 1 0x55) (·.setPc 0x123) = true := by decide
-- A1
theorem test_ld_vx_kk : runs 0x60AB id (fun s => (s.setPc 0x202).setReg 0 0xAB) = true := by decide
-- A3, A5
theorem test_add_vx_kk : runs 0x7005 (·.setReg 0 0xFE) (fun s => (s.setPc 0x202).setReg 0 0x03) = true ∧
    runs 0x7F01 (·.setReg 0xF 0xFF) (fun s => (s.setPc 0x202).setReg 0xF 0x00) = true := by decide
-- A6
theorem test_ld_vx_vy : runs 0x8120 (·.setReg 2 0x5A) (fun s => (s.setPc 0x202).setReg 1 0x5A) = true := by decide
-- A8
theorem test_or : runs 0x8121 (fun s => ((s.setReg 1 0xF0).setReg 2 0x3C).setReg 0xF 0xAA)
    (fun s => (s.setPc 0x202).setReg 1 0xFC) = true := by decide
-- A9
theorem test_and : runs 0x8122 (fun s => ((s.setReg 1 0xF0).setReg 2 0x3C).setReg 0xF 0xAA)
    (fun s => (s.setPc 0x202).setReg 1 0x30) = true := by decide
-- A10
theorem test_xor : runs 0x8123 (fun s => ((s.setReg 1 0xF0).setReg 2 0x3C).setReg 0xF 0xAA)
    (fun s => (s.setPc 0x202).setReg 1 0xCC) = true := by decide
-- A15, A17
theorem test_add_vx_vy : runs 0x8124 (fun s => (s.setReg 1 0x80).setReg 2 0x80)
    (fun s => ((s.setPc 0x202).setReg 1 0).setReg 0xF 1) = true := by decide
theorem test_add_into_vf : runs 0x8F14 (fun s => (s.setReg 0xF 0xF0).setReg 1 0x20)
    (fun s => (s.setPc 0x202).setReg 0xF 1) = true := by decide
-- A20, A21
theorem test_sub : runs 0x8125 (fun s => (s.setReg 1 0x01).setReg 2 0x10)
    (fun s => (s.setPc 0x202).setReg 1 0xF1) = true ∧
    runs 0x8125 (fun s => (s.setReg 1 0x33).setReg 2 0x33)
    (fun s => ((s.setPc 0x202).setReg 1 0).setReg 0xF 1) = true := by decide
-- A26, A30
theorem test_shr : runs 0x8126 (fun s => (s.setReg 1 0x05).setReg 2 0xFF)
    (fun s => ((s.setPc 0x202).setReg 1 0x02).setReg 0xF 1) = true ∧
    runs 0x8F06 (·.setReg 0xF 0x02) (fun s => (s.setPc 0x202).setReg 0xF 0) = true := by decide
-- A31, A34
theorem test_subn : runs 0x8127 (fun s => (s.setReg 1 0x01).setReg 2 0x10)
    (fun s => ((s.setPc 0x202).setReg 1 0x0F).setReg 0xF 1) = true ∧
    runs 0x8F17 (fun s => (s.setReg 0xF 0x05).setReg 1 0x09) (fun s => (s.setPc 0x202).setReg 0xF 1) = true := by decide
-- A35, A39
theorem test_shl : runs 0x812E (fun s => (s.setReg 1 0x81).setReg 2 0xFF)
    (fun s => ((s.setPc 0x202).setReg 1 0x02).setReg 0xF 1) = true ∧
    runs 0x8F0E (·.setReg 0xF 0x7F) (fun s => (s.setPc 0x202).setReg 0xF 0) = true := by decide
-- A40, with its draw 0xA7; the draw itself is free, and its counter moves on
theorem test_rnd_masks : (State.reset.loadMaskedRandom 3 0x0F 0xA7).reg 3 = 0x07 := by decide
theorem test_rnd : leaves 0xC30F (·.setReg 3 0xFF) (fun t => decide (t.pc = 0x202 ∧ t.draws = 1 ∧ t.reg 0xF = 0)) = true := by
  decide
-- M1
theorem test_ld_i : runs 0xA2F0 id (fun s => (s.setPc 0x202).setI 0x2F0) = true := by decide
-- M4, M5
theorem test_add_i : runs 0xF21E (fun s => (s.setI 0xFFF).setReg 2 1) (fun s => (s.setPc 0x202).setI 0x1000) = true ∧
    runs 0xF21E (fun s => (s.setI 0xFFFF).setReg 2 1) (fun s => (s.setPc 0x202).setI 0) = true := by decide
-- M9, M10
theorem test_ld_f : runs 0xF429 (·.setReg 4 0x0F) (fun s => (s.setPc 0x202).setI 0x09B) = true ∧
    runs 0xF429 (·.setReg 4 0x1A) (fun s => (s.setPc 0x202).setI 0x082) = true := by decide
-- M14, M15
theorem test_ld_b : leaves 0xF033 (fun s => (s.setReg 0 0xFF).setI 0xFFD)
    (fun t => decide (t.bytesAt 0xFFC 4 = [0, 2, 5, 5] ∧ t.pc = 0x202 ∧ t.i = 0xFFD)) = true := by decide
theorem test_ld_b_fault : stops 0xF033 (fun s => (s.setReg 0 0x7B).setI 0xFFE) (.memoryFault 0x1000) = true := by decide
-- M20, M22
theorem test_ld_mem_vx : leaves 0xF255
    (fun s => ((((s.setReg 0 1).setReg 1 2).setReg 2 3).setReg 3 4).setI 0x400)
    (fun t => decide (t.bytesAt 0x3FF 5 = [0, 1, 2, 3, 0] ∧ t.pc = 0x202 ∧ t.i = 0x400)) = true := by decide
theorem test_ld_mem_vx_fault : stops 0xF155 (fun s => (s.setReg 0 0x99).setI 0xFFF) (.memoryFault 0x1000) = true := by
  decide
-- M27, M30
theorem test_ld_vx_mem : runs 0xF265 (fun s => ((s.storeBytes 0x300 [2, 5, 4, 7]).setReg 3 0xEE).setI 0x300)
    (fun s => (((s.setPc 0x202).setReg 0 2).setReg 1 5).setReg 2 4) = true := by decide
theorem test_ld_vx_mem_fault : stops 0xF165 (fun s => (s.setReg 0 0x11).setI 0xFFF) (.memoryFault 0x1000) = true := by
  decide
-- G1
theorem test_cls : runs 0x00E0 (fun s => (s.setFb ((s.fb.set 0 1).set 31 0x8000000000000000)).setReg 0xF 1)
    (fun s => (s.setPc 0x202).setFb (Vector.replicate 32 0)) = true := by decide
-- G6: bit 7 is the start column
theorem test_drw : leaves 0xD011
    (fun s => (((s.storeBytes 0x300 [0x80]).setI 0x300).setFb (s.fb.set 0 2)).setReg 0xF 1)
    (fun t => decide (t.reg 0xF = 0 ∧ t.fb.pixel 0 0 = true ∧ t.fb.pixel 1 0 = true ∧ t.fb.pixel 2 0 = false ∧
      t.pc = 0x202)) = true := by decide
-- Program P3, steps 4 and 5: clipped at the corner, then erased with a collision
theorem test_drw_clips : runs 0xD013
    (fun s => (((s.storeBytes 0x300 [0xFF, 0x81, 0xFF]).setI 0x300).setReg 0 0x3E).setReg 1 0x1E)
    (fun s => (s.setPc 0x202).setFb ((s.fb.set 30 0xC000000000000000).set 31 0x4000000000000000)) = true ∧
    runs 0xD013
    (fun s => ((((s.storeBytes 0x300 [0xFF, 0x81, 0xFF]).setI 0x300).setReg 0 0x3E).setReg 1 0x1E).setFb
      ((s.fb.set 30 0xC000000000000000).set 31 0x4000000000000000))
    (fun s => ((s.setPc 0x202).setFb (Vector.replicate 32 0)).setReg 0xF 1) = true := by decide
-- K3, K2
theorem test_skp : runs 0xE19E (fun s => (s.setReg 1 0x17).setKeys 0x0080) (·.setPc 0x204) = true ∧
    runs 0xE19E (·.setReg 1 0x07) (·.setPc 0x202) = true := by decide
-- K8, K6
theorem test_sknp : runs 0xE1A1 (fun s => (s.setReg 1 0xF7).setKeys 0x0080) (·.setPc 0x202) = true ∧
    runs 0xE1A1 (·.setReg 1 0x07) (·.setPc 0x204) = true := by decide
-- K9
theorem test_ld_vx_dt : runs 0xF207 (·.setDt 5) (fun s => (s.setPc 0x202).setReg 2 5) = true := by decide
-- K12
theorem test_ld_dt_vx : runs 0xF115 (·.setReg 1 7) (fun s => (s.setPc 0x202).setDt 7) = true := by decide
-- K15
theorem test_ld_st_vx : runs 0xF318 (·.setReg 3 0x1E) (fun s => (s.setPc 0x202).setSt 30) = true := by decide
-- K18, and the last step of S2: keys 2 and 4 newly down, key 9 held throughout
theorem test_ld_vx_k : runs 0xF30A (·.setKeys 0x0204) (·.setMode (.waitingForKey 3 0x0204)) = true := by decide
theorem test_key_wait : stepsWith ((State.reset.setMode (.waitingForKey 3 0x0200)).setKeys 0x0214)
    (fun t => same t (((State.reset.setKeys 0x0214).setPc 0x202).setReg 3 2)) = true := by decide

/-! ### The cycle and the other operations -/

-- U1, U2
theorem test_unknown_opcode :
    cycles (start 0x0000 id) (.report 0x0000) ((start 0x0000 id).setPc 0x202) = true ∧
    stops 0x0000 (fun _ => State.resetWith { defaultConfig with unknownOpcodePolicy := .halting })
      (.unknownOpcode 0x0000) = true := by decide
-- U21, U23
theorem test_fetch_fault :
    cycles (State.reset.setPc 0x0FFF) (.fault (.memoryFault 0x1000)) (State.reset.setPc 0x0FFF) = true ∧
    cycles (State.reset.setPc 0xFFFF) (.fault (.memoryFault 0xFFFF)) (State.reset.setPc 0xFFFF) = true := by decide
-- U20, U25
theorem test_fetch : runs 0x6001 (·.setPc 0xFFE) (fun s => (s.setPc 0x1000).setReg 0 1) = true ∧
    runs 0x6A07 (·.setPc 0x201) (fun s => (s.setPc 0x203).setReg 0xA 7) = true := by decide
/-- The word placed by `withFetchWord` is fetched, where nothing can be fetched at `PC` and in a key wait too. -/
theorem test_with_fetch_word :
    stepsWith ((State.reset.setPc 0xFFFF).withFetchWord 16 0x60AB) (fun t => decide (t.reg 0 = 0xAB)) = true ∧
    stepsWith ((State.reset.setMode (.waitingForKey 3 0)).withFetchWord 16 0x60AB) (fun t => decide (t.reg 0 = 0xAB)) =
      true := by decide
-- S1
theorem test_ticks :
    let t := transactAll [.tickTimers, .tickTimers] ((State.reset.setDt 255).setSt 1)
    t.dt = 253 ∧ t.st = 0 := by decide
-- S5, last line
theorem test_second_load :
    (transactAll [.init, .loadProgram [0xAA, 0xBB, 0xCC], .loadProgram [0x11]] State.reset).bytesAt 0x1FF 5 =
      [0, 0x11, 0xBB, 0xCC, 0] := by decide
-- S6
theorem test_init :
    same (transactAll [.init] (((start 0xF30A id).setMode (.waitingForKey 3 0x0204)).setKeys 0x0204)) State.reset = true := by
  decide
-- R252, R254
theorem test_keys_and_sound :
    (transactAll [.setKeyState 2 true, .setKeyState 9 true, .setKeyState 2 false] State.reset).keys = 0x0200 ∧
    (transact .soundActive (State.reset.setSt 1)).1 = .sound true ∧ (transact .soundActive State.reset).1 = .sound false := by
  decide

/-! ### Values that meet the hypotheses of each statement -/

theorem witness_EncodeOfDecodeIsTheOpcode : decode 0x8124 = some (.addVxVy 1 2) := by decide

theorem witness_DecoderAgreesWithOpcodeTable :
    decode 0x8124 = some (.addVxVy 1 2) ∧ decode 0x00DF = none ∧
    (⟨0x8004, 0xF00F⟩ : OpcodeRow) ∈ opcodeTable ∧ (⟨0x8004, 0xF00F⟩ : OpcodeRow).accepts 0x8124 := by decide

/-- At the last fetchable address. -/
theorem witness_StepRunsTheDecodedInstruction :
    let s := start 0x60AB (·.setPc 4094)
    s.mode = .running ∧ s.pc.toNat ≤ 4094 ∧
    decode (opcodeOfBytes (s.byteAt s.pc.toNat) (s.byteAt (s.pc.toNat + 1))) = some (.ldVxKk 0x0 0xAB) := by decide

theorem witness_FetchReadsTwoBytesOrFaults :
    (State.reset.setPc 4094).mode = .running ∧ (State.reset.setPc 4094).pc.toNat ≤ 4094 ∧
    4094 < (State.reset.setPc 4095).pc.toNat ∧ (State.reset.setPc 4095).pc.toNat = 4095 ∧
    (State.reset.setPc 4096).pc.toNat ≠ 4095 ∧ 4094 < (State.reset.setPc 0xFFFF).pc.toNat := by decide

theorem witness_UnknownOpcodeFollowsThePolicy :
    let s := start 0x8128 (·.setPc 4094)
    let u := start 0x8128 fun _ => State.resetWith { defaultConfig with unknownOpcodePolicy := .halting }
    (s.mode = .running ∧ s.pc.toNat ≤ 4094 ∧ decode s.fetchedOpcode = none ∧
      s.config.unknownOpcodePolicy = .continuing) ∧
    (u.mode = .running ∧ u.pc.toNat ≤ 4094 ∧ decode u.fetchedOpcode = none ∧
      u.config.unknownOpcodePolicy = .halting) := by decide

/-- A fault of the fetch and one of a handler. -/
theorem witness_FaultsArePrecise :
    (cycle (State.reset.setPc 4095)).result = .fault (.memoryFault 4096) ∧
    (cycle (start 0x00EE id)).result = .fault .stackUnderflow := by decide

/-- Each handler at the boundary of its condition. -/
theorem witness_HandlersRaiseOnlyTheirOwnError :
    exec .ret State.reset = .fault .stackUnderflow ∧
    exec (.call 0x300) (State.reset.setStack 16 State.reset.stack) = .fault .stackOverflow ∧
    exec (.drw 0 0 15) (State.reset.setI 0xFF2) = .fault (.memoryFault 0x1000) ∧
    exec (.ldBVx 0) (State.reset.setI 0xFFE) = .fault (.memoryFault 0x1000) ∧
    exec (.ldMemVx 1) (State.reset.setI 0xFFF) = .fault (.memoryFault 0x1000) ∧
    exec (.ldVxMem 0) (State.reset.setI 0xFFFF) = .fault (.memoryFault 0xFFFF) := ⟨rfl, rfl, rfl, rfl, rfl, rfl⟩

theorem witness_StepKeepsTheInvariant :
    (State.reset.setPc 0x300).Inv ∧ step (State.reset.setPc 0x300) = .next (State.reset.setPc 0x302) :=
  ⟨by decide, rfl⟩

theorem witness_ResetMeetsTheInvariant : Config.wellFormed { defaultConfig with fontBase := 0x1B0 } := by decide

theorem witness_EveryRunOfTransactionsKeepsTheInvariant : State.reset.Inv := by decide

/-- At 0x200 and at the last fetchable address. -/
theorem witness_SelfJumpChangesNothing :
    (let s := start 0x1200 id
     s.mode = .running ∧ s.pc.toNat ≤ 4094 ∧ s.fetchedOpcode = encode (.jp (s.pc.setWidth 12))) ∧
    (let s := start 0x1FFE (·.setPc 4094)
     s.mode = .running ∧ s.pc.toNat ≤ 4094 ∧ s.fetchedOpcode = encode (.jp (s.pc.setWidth 12))) := by decide

/-- V0 = 0x12 and V1 = 0x00 spell a jump to 0x200; they are stored at `PC` (vector M32). -/
def storing : State := (((State.reset.setPc 0x202).setI 0x202).setReg 0 0x12).setReg 1 0x00

/-- Both bytes at `PC` are stored. -/
theorem witness_StoreIsSeenByTheNextFetch :
    storing.mem.wf storing.config ∧ storing.mode = .running ∧ IsStore (.ldMemVx 1) ∧
    exec (.ldMemVx 1) storing = .next (storing.storeBytes 0x202 [0x12, 0x00]) ∧
    (storing.storeBytes 0x202 [0x12, 0x00]).pc.toNat ≤ 4094 ∧
    HoldsAfterStore (.ldMemVx 1) storing 0x202 0x12 ∧ HoldsAfterStore (.ldMemVx 1) storing 0x203 0x00 ∧
    decode (opcodeOfBytes 0x12 0x00) = some (.jp 0x200) :=
  ⟨by decide, rfl, ⟨1, .inr rfl⟩, rfl, by decide, .inl (.inl ⟨1, 0, rfl, by decide, by decide, by decide⟩),
    .inl (.inl ⟨1, 1, rfl, by decide, by decide, by decide⟩), by decide⟩

/-- One byte is stored, at `PC`; the byte after it is the old one, 0 (program P5). -/
theorem witness_one_byte_store :
    exec (.ldMemVx 0) storing = .next (storing.storeBytes 0x202 [0x12]) ∧
    HoldsAfterStore (.ldMemVx 0) storing 0x202 0x12 ∧ HoldsAfterStore (.ldMemVx 0) storing 0x203 0x00 := by
  refine ⟨rfl, .inl (.inl ⟨0, 0, rfl, by decide, by decide, by decide⟩), .inr ⟨?_, by decide⟩⟩
  rintro c (⟨x, k, hx, hk, ha, -⟩ | ⟨x, hx, -⟩)
  · cases hx
    have : (0x203 : Nat) = 0x202 + k.toNat := ha
    have : k.toNat ≤ 0 := hk
    omega
  · cases hx

/-- The first digit of 254 falls on `PC + 1`, after the old byte 0x60 at `PC`. -/
theorem witness_digit_store :
    let s := ((start 0x6000 id).setI 0x201).setReg 5 0xFE
    exec (.ldBVx 5) s = .next (s.storeBytes 0x201 [2, 5, 4]) ∧
    HoldsAfterStore (.ldBVx 5) s 0x200 0x60 ∧ HoldsAfterStore (.ldBVx 5) s 0x201 0x02 ∧
    decode (opcodeOfBytes 0x60 0x02) = some (.ldVxKk 0 2) := by
  refine ⟨rfl, .inr ⟨?_, by decide⟩, .inl (.inr ⟨5, rfl, .inl ⟨by decide, by decide⟩⟩), by decide⟩
  rintro c (⟨x, k, hx, -⟩ | ⟨x, -, h⟩)
  · cases hx
  · rcases h with ⟨h, -⟩ | ⟨h, -⟩ | ⟨h, -⟩ <;> exact absurd h (by decide)

theorem witness_EachPartIsWrittenOnlyByItsInstructions :
    exec (.ldDtVx 1) State.reset = .next (State.reset.setDt 0) ∧ ¬ HasDestination 1 (.ldDtVx 1) ∧
    ¬ ((1 : Nibble) = 0xF ∧ IsFlagInstr (.ldDtVx 1)) ∧ ¬ MayMovePc (.ldDtVx 1) ∧ ¬ MayWrite .soundTimer (.ldDtVx 1) :=
  ⟨rfl, by simp [HasDestination], by simp, by simp [MayMovePc], by simp [MayWrite]⟩

/-- The two timers, each changed by a step. -/
theorem witness_StepNeverCountsTimersNorWritesKeys :
    stepsWith (start 0xF115 (·.setReg 1 7)) (fun t => decide (t.dt ≠ (start 0xF115 (·.setReg 1 7)).dt)) = true ∧
    stepsWith (start 0xF118 (·.setReg 1 7)) (fun t => decide (t.st ≠ (start 0xF118 (·.setReg 1 7)).st)) = true := by decide

/-- VF as a flag, and VF as a destination. -/
theorem witness_OnlyFlagInstructionsWriteVFAsASideEffect :
    (exec (.shrVx 1 0) (State.reset.setReg 1 1) = .next ((State.reset.setReg 1 1).setRegFlag 1 0 1) ∧
      ((State.reset.setReg 1 1).setRegFlag 1 0 1).reg 0xF ≠ (State.reset.setReg 1 1).reg 0xF) ∧
    (exec (.ldVxKk 0xF 0x55) State.reset = .next (State.reset.setReg 0xF 0x55) ∧
      (State.reset.setReg 0xF 0x55).reg 0xF ≠ State.reset.reg 0xF) :=
  ⟨⟨rfl, by decide⟩, ⟨rfl, by decide⟩⟩

theorem witness_NoInstructionReadsTheSoundTimer :
    (∀ x, Instr.ldVxDt 2 ≠ .ldStVx x) ∧ ∃ x, Instr.ldStVx 3 = .ldStVx x :=
  ⟨fun _ h => (by cases h), ⟨3, rfl⟩⟩

theorem witness_OnlyKeyInstructionsReadTheKeys :
    ∀ x, Instr.drw 0 1 2 ≠ .skp x ∧ Instr.drw 0 1 2 ≠ .sknp x ∧ Instr.drw 0 1 2 ≠ .ldVxK x :=
  fun _ => ⟨fun h => (by cases h), fun h => (by cases h), fun h => (by cases h)⟩

theorem witness_CallPushesTheReturnAddress :
    State.reset.sp.val < 16 ∧ (State.reset.setStack 15 State.reset.stack).sp.val < 16 ∧
    (State.reset.setStack 16 State.reset.stack).sp.val = 16 := by decide

theorem witness_ReturnPopsIntoPc :
    0 < (State.reset.setStack 1 State.reset.stack).sp.val ∧ 0 < (State.reset.setStack 16 State.reset.stack).sp.val ∧
    State.reset.sp.val = 0 := by decide

/-- The state after the call, and one in which a register has changed since. -/
theorem witness_ReturnUndoesCall :
    let t := (State.reset.setStack 1 (State.reset.stack.set 0 0x200)).setPc 0x300
    exec (.call 0x300) State.reset = .next t ∧ (t.setReg 0 1).sp = t.sp ∧ (t.setReg 0 1).stack = t.stack :=
  ⟨rfl, rfl, rfl⟩

/-- Comparisons that hold and that fail, for the four skips. -/
theorem witness_RegisterSkipsTestTheirCondition :
    let s := State.reset.setReg 3 0x10
    s.reg 3 = 0x10 ∧ s.reg 3 ≠ 0x11 ∧ s.reg 1 = s.reg 2 ∧ s.reg 3 ≠ s.reg 2 := by decide

/-- Key 7 down, named by 0x17 and by 0xF7 (vectors K3, K8), and key 0 up. -/
theorem witness_KeySkipsTestTheLowFourBits :
    let s := ((State.reset.setKeys 0x0080).setReg 1 0x17).setReg 2 0x00
    s.keys.getLsbD ((s.reg 1).toNat % 16) = true ∧ s.keys.getLsbD ((s.reg 2).toNat % 16) = false := by decide

/-- Both values of each flag's condition, the two boundary sums and equal operands among them. -/
theorem witness_flag_conditions :
    255 < (0x80#8).toNat + (0x80#8).toNat ∧ ¬ 255 < (0x80#8).toNat + (0x7F#8).toNat ∧
    (0x33#8).toNat ≤ (0x33#8).toNat ∧ ¬ (0x10#8).toNat ≤ (0x01#8).toNat := by decide

theorem witness_FontAddressOfADigit : State.reset.config.wellFormed ∧ State.reset.mem = [] := by decide

/-- The last address at which three bytes fit, and the next. -/
theorem witness_DecimalDigitsAreStored :
    State.reset.mem.wf State.reset.config ∧ (State.reset.setI 4093).i.toNat + 2 ≤ 4095 ∧
    4095 < (State.reset.setI 4094).i.toNat + 2 := by decide

/-- The last address at which two bytes fit, and the next; the whole register file too. -/
theorem witness_RegistersAreStored :
    State.reset.mem.wf State.reset.config ∧ (State.reset.setI 4094).i.toNat + (1 : Nibble).toNat ≤ 4095 ∧
    4095 < (State.reset.setI 4095).i.toNat + (1 : Nibble).toNat ∧
    (State.reset.setI 4080).i.toNat + (15 : Nibble).toNat ≤ 4095 := by decide

theorem witness_RegistersAreLoaded :
    (State.reset.setI 4095).i.toNat + (0 : Nibble).toNat ≤ 4095 ∧
    4095 < (State.reset.setI 4096).i.toNat + (0 : Nibble).toNat := by decide

theorem witness_LoadGivesBackWhatWasStored :
    State.reset.mem.wf State.reset.config ∧
    exec (.ldMemVx 1) ((State.reset.setI 4094).setReg 1 5) =
      .next (((State.reset.setI 4094).setReg 1 5).storeBytes 4094 [0, 5]) := ⟨by decide, rfl⟩

/-- No byte at an address that does not exist, and the last byte that does. -/
theorem witness_DrawFlipsThePixelsTheSpriteHits :
    ((0 : Nibble) = 0 ∨ (State.reset.setI 0xFFFF).i.toNat + (0 : Nibble).toNat ≤ 4096) ∧
    ((1 : Nibble) = 0 ∨ (State.reset.setI 4095).i.toNat + (1 : Nibble).toNat ≤ 4096) := by decide

/-- A sprite at a corner: a pixel hit at the last column, and one not hit. -/
theorem witness_SpriteHits :
    let s := ((State.reset.setI 0x50).setReg 0 62).setReg 1 31
    SpriteHits s 0 1 1 63 31 ∧ ¬ SpriteHits s 0 1 1 61 31 := by
  refine ⟨⟨0, 1, by decide, by decide, by decide, by decide, by decide⟩, ?_⟩
  rintro ⟨r, c, -, -, h, -⟩
  have : (61 : Nat) = 62 + c := h
  omega

/-- Glyph 1, drawn on the clear display and on one that has pixel (2, 0) of it set. -/
theorem witness_CollisionMeansAPixelWasCleared :
    let s := State.reset.setI 0x55
    let u := s.setFb (s.fb.set 0 4)
    exec (.drw 0 1 5) s = .next ((s.setFb (s.drawSprite 0 1 5).1).setReg 0xF 0) ∧
    exec (.drw 0 1 5) u = .next ((u.setFb (u.drawSprite 0 1 5).1).setReg 0xF 1) := ⟨rfl, rfl⟩

/-- The same two draws as of the statement before. -/
theorem witness_DrawingTwiceRestoresTheDisplay :
    let s := State.reset.setI 0x55
    exec (.drw 0 1 5) s = .next ((s.setFb (s.drawSprite 0 1 5).1).setReg 0xF 0) ∧
    (s.drawSprite 0 1 5).1.pixel 2 0 = true ∧ s.fb.pixel 2 0 = false := ⟨rfl, by decide, by decide⟩

/-- One byte too many, by one. -/
theorem witness_DrawChecksEveryByteFirst :
    (1 : Nibble) ≠ 0 ∧ 4096 < (State.reset.setI 4096).i.toNat + (1 : Nibble).toNat ∧
    (15 : Nibble) ≠ 0 ∧ 4096 < (State.reset.setI 0xFF2).i.toNat + (15 : Nibble).toNat := by decide

/-- A wait with keys 2 and 4 newly down and key 9 held, and one in which key 9 was seen before. -/
theorem witness_KeyWaitTakesTheLowestNewKey :
    let s := (State.reset.setMode (.waitingForKey 3 0x0200)).setKeys 0x0214
    let u := (State.reset.setMode (.waitingForKey 3 0x0200)).setKeys 0x0200
    (s.mode = .waitingForKey 3 0x0200 ∧ NewlyDown s 0x0200 2 ∧ ∀ j : Nibble, j.toNat < 2 → ¬ NewlyDown s 0x0200 j) ∧
    (u.mode = .waitingForKey 3 0x0200 ∧ ∀ j, ¬ NewlyDown u 0x0200 j) := by unfold NewlyDown; decide

theorem witness_KeyWaitLastsWithoutAPress :
    let u := (State.reset.setMode (.waitingForKey 15 0xFFFF)).setKeys 0x8001
    u.mode = .waitingForKey 15 0xFFFF ∧ ∀ j, ¬ NewlyDown u 0xFFFF j := by unfold NewlyDown; decide

/-- A program that fills memory to its end, and one longer by a byte. -/
theorem witness_ProgramIsCopiedOrRefusedWhole :
    State.reset.mem.wf State.reset.config ∧ (List.replicate 3584 (0x01#8)).length ≤ 3584 ∧
    3584 < (List.replicate 3585 (0x01#8)).length := 
  ⟨by decide, by rw [List.length_replicate], by rw [List.length_replicate]; omega⟩

end Sys2Proof.Tests
end

/-! Proofs about the step cycle (40_step_cycle.md): the fetch, R122. -/

namespace Sys2Proof.Machine

/-- The opcode is big end first (R64). -/
theorem State.fetchedOpcode_toNat (s : State) :
    s.fetchedOpcode.toNat = (s.byteAt s.pc.toNat).toNat * 256 + (s.byteAt (s.pc.toNat + 1)).toNat :=
  opcodeOfBytes_toNat _ _

theorem step_of_fetchFault {s : State} (hm : s.mode = .running) (h : 4094 < s.pc.toNat) :
    step s = .fault (.memoryFault (max s.pc.toNat 4096)) := by
  simp [step, cycle_of_fetchFault hm h, StepReturn.outcome]

/-- Of the two bytes at a `pc` that cannot be fetched, the lowest one that does not exist, in the words of R122. -/
theorem lowestOffending_eq {pc : Nat} (h : 4094 < pc) : max pc 4096 = if pc = 4095 then 4096 else pc := by
  split <;> omega

/-- Settles O6: the two sides of the bounds check, each by the law of the fetch or of the cycle for that side. -/
theorem fetchReadsTwoBytesOrFaults : Obligations.FetchReadsTwoBytesOrFaults := by
  unfold Obligations.FetchReadsTwoBytesOrFaults
  intro s hm
  constructor
  · intro hpc
    exact ⟨State.fetchFault_eq_none.2 hpc, s.fetchedOpcode_toNat⟩
  · intro hpc
    rw [← lowestOffending_eq hpc]
    exact ⟨step_of_fetchFault hm hpc, by rw [cycle_of_fetchFault hm hpc]⟩

end Sys2Proof.Machine

/-! Proofs about control transfer (41_control_transfer.md): the skips on registers, R143 to R146, and the jumps, R141
and R147. All of them write `PC` alone. -/

namespace Sys2Proof.Machine

/-! ### Writing `PC` -/

theorem samePart_setPc (s : State) (a : Word) (p : Part) : SamePart s (s.setPc a) p := by
  cases p <;> simp [SamePart]

theorem frame_setPc (s : State) (a : Word) : Frame [] noReg s (s.setPc a) :=
  ⟨fun p _ => samePart_setPc s a p, fun r _ => s.setPc_reg a r, s.setPc_keys a, s.setPc_config a⟩

/-! ### Skips (R148) -/

/-- An instruction that answers `skipIf` of a test skips exactly when the condition that the test decides holds. -/
theorem skipsWhen_of_exec_eq_skipIf {i : Instr} {s : State} {b : Bool} {c : Prop}
    (hexec : exec i s = .next (s.skipIf b)) (hb : b = true ↔ c) : SkipsWhen i s c := by
  rw [State.skipIf_eq] at hexec
  refine ⟨_, hexec, ?_, ?_, frame_setPc s _⟩
  · intro hc
    simp [hb.2 hc, BitVec.toNat_add]
  · intro hc
    simp [mt hb.1 hc]

/-- Settles O26: each skip is `skipIf` of its own comparison. -/
theorem registerSkipsTestTheirCondition : Obligations.RegisterSkipsTestTheirCondition := by
  unfold Obligations.RegisterSkipsTestTheirCondition
  intro x y kk s
  refine ⟨?seVxKk, ?sneVxKk, ?seVxVy, ?sneVxVy⟩
  case seVxKk => exact skipsWhen_of_exec_eq_skipIf (b := s.reg x == kk) rfl beq_iff_eq
  case sneVxKk => exact skipsWhen_of_exec_eq_skipIf (b := s.reg x != kk) rfl bne_iff_ne
  case seVxVy => exact skipsWhen_of_exec_eq_skipIf (b := s.reg x == s.reg y) rfl beq_iff_eq
  case sneVxVy => exact skipsWhen_of_exec_eq_skipIf (b := s.reg x != s.reg y) rfl bne_iff_ne

/-! ### Jumps (R141, R147) -/

@[simp] theorem zextAddr_toNat (nnn : Addr12) : (zextAddr nnn).toNat = nnn.toNat :=
  BitVec.toNat_setWidth_of_le (by decide)

@[simp] theorem zextByte_toNat (b : Byte) : (zextByte b).toNat = b.toNat :=
  BitVec.toNat_setWidth_of_le (by decide)

/-- The largest sum is `0xFFF + 0xFF`, so the target of JP_V0 does not wrap in 16 bits (R25, R147). -/
theorem zextAddr_add_zextByte_toNat (nnn : Addr12) (b : Byte) :
    (zextAddr nnn + zextByte b).toNat = nnn.toNat + b.toNat := by
  have := nnn.isLt
  have := b.isLt
  rw [BitVec.toNat_add, zextAddr_toNat, zextByte_toNat]
  omega

/-- Settles O21: `PC` is overwritten with the extended operand. -/
theorem jumpSetsPcToTheAddress : Obligations.JumpSetsPcToTheAddress := by
  unfold Obligations.JumpSetsPcToTheAddress
  intro nnn s
  exact ⟨s.setPc (zextAddr nnn), rfl, zextAddr_toNat nnn, frame_setPc s _⟩

/-- Settles O22: `PC` is overwritten with a sum that does not wrap. -/
theorem indexedJumpAddsV0 : Obligations.IndexedJumpAddsV0 := by
  unfold Obligations.IndexedJumpAddsV0
  intro nnn s
  exact ⟨s.setPc (zextAddr nnn + zextByte (s.reg 0x0)), rfl, zextAddr_add_zextByte_toNat nnn _, frame_setPc s _⟩

end Sys2Proof.Machine

/-! Proofs about register load and arithmetic (42_alu.md): R160 to R162, and the sum and the differences with a flag,
R166, R167 and R169. All of them write general registers alone. -/

namespace Sys2Proof.Machine

/-! ### Writing one register, or one register and VF -/

theorem samePart_setReg (s : State) (x : Nibble) (b : Byte) (p : Part) : SamePart s (s.setReg x b) p := by
  cases p <;> simp [SamePart]

theorem samePart_setRegFlag (s : State) (x : Nibble) (b fl : Byte) (p : Part) :
    SamePart s (s.setRegFlag x b fl) p := by
  cases p <;> simp [SamePart]

theorem frame_setReg (s : State) (x : Nibble) (b : Byte) : Frame [] (· = x) s (s.setReg x b) :=
  ⟨fun p _ => samePart_setReg s x b p, fun _ hr => s.reg_setReg_of_ne b hr, s.setReg_keys x b, s.setReg_config x b⟩

theorem frame_setRegFlag (s : State) (x : Nibble) (b fl : Byte) :
    Frame [] (fun r => r = x ∨ r = 0xF) s (s.setRegFlag x b fl) := by
  refine ⟨fun p _ => samePart_setRegFlag s x b fl p, ?_, s.setRegFlag_keys x b fl, s.setRegFlag_config x b fl⟩
  intro r hr
  obtain ⟨hx, hF⟩ := not_or.1 hr
  rw [s.setRegFlag_reg_of_ne x r b fl hF, if_neg hx]

theorem writesReg_of_exec_eq_setReg {i : Instr} {s : State} {x : Nibble} {b : Byte} {n : Nat}
    (hexec : exec i s = .next (s.setReg x b)) (hb : b.toNat = n) : WritesReg i s x n :=
  ⟨s.setReg x b, hexec, by rw [State.reg_setReg_self, hb], s.setReg_pc x b, frame_setReg s x b⟩

/-- The flag is written last, so it is what VF holds even where the result went to VF (R173). -/
theorem writesRegAndFlag_of_exec_eq_setRegFlag {i : Instr} {s : State} {x : Nibble} {b fl : Byte} {result flag : Nat}
    (hexec : exec i s = .next (s.setRegFlag x b fl)) (hb : b.toNat = result) (hfl : fl.toNat = flag) :
    WritesRegAndFlag i s x result flag := by
  refine ⟨s.setRegFlag x b fl, hexec, ?_, ?_, s.setRegFlag_pc x b fl, frame_setRegFlag s x b fl⟩
  · intro hx
    rw [s.setRegFlag_reg_of_ne x x b fl hx, if_pos rfl, hb]
  · rw [State.setRegFlag_reg_flag, hfl]

/-! ### Flags and differences as numbers (R26, R166, R167, R169) -/

theorem flagByte_decide_toNat (p : Prop) [Decidable p] : (flagByte (decide p)).toNat = if p then 1 else 0 := by
  by_cases h : p <;> simp [flagByte, h]

theorem carryFlag_toNat (a b : Byte) : (carryFlag a b).toNat = if 255 < a.toNat + b.toNat then 1 else 0 :=
  flagByte_decide_toNat _

theorem noBorrowFlag_toNat (a b : Byte) : (noBorrowFlag a b).toNat = if b.toNat ≤ a.toNat then 1 else 0 :=
  flagByte_decide_toNat _

/-- The difference modulo 256 in the order of R167, where no subtraction of naturals is cut off at 0. -/
theorem byte_sub_toNat (a b : Byte) : (a - b).toNat = (a.toNat + 256 - b.toNat) % 256 := by
  have := b.isLt
  rw [BitVec.toNat_sub]
  omega

/-! ### Loads and the immediate sum (R160 to R162) -/

/-- Settles O28: each of the three is one `setReg`. -/
theorem registerLoadsAndAddImmediate : Obligations.RegisterLoadsAndAddImmediate := by
  unfold Obligations.RegisterLoadsAndAddImmediate
  intro x y kk s
  refine ⟨?ldVxKk, ?addVxKk, ?ldVxVy⟩
  case ldVxKk => exact writesReg_of_exec_eq_setReg (b := kk) rfl rfl
  case addVxKk => exact writesReg_of_exec_eq_setReg (b := s.reg x + kk) rfl (BitVec.toNat_add _ _)
  case ldVxVy => exact writesReg_of_exec_eq_setReg (b := s.reg y) rfl rfl

/-! ### Sum and differences with a flag (R166, R167, R169) -/

/-- Settles O30: one `setRegFlag` of the wrapped sum and the carry. -/
theorem addSetsCarry : Obligations.AddSetsCarry := by
  unfold Obligations.AddSetsCarry
  intro x y s
  exact writesRegAndFlag_of_exec_eq_setRegFlag (b := s.reg x + s.reg y) rfl (BitVec.toNat_add _ _)
    (carryFlag_toNat _ _)

/-- Settles O31: SUB and SUBN are one `setRegFlag` with the operands exchanged. -/
theorem subtractSetsNoBorrow : Obligations.SubtractSetsNoBorrow := by
  unfold Obligations.SubtractSetsNoBorrow
  intro x y s
  refine ⟨?subVxVy, ?subnVxVy⟩
  case subVxVy =>
    exact writesRegAndFlag_of_exec_eq_setRegFlag (b := s.reg x - s.reg y) rfl (byte_sub_toNat _ _)
      (noBorrowFlag_toNat _ _)
  case subnVxVy =>
    exact writesRegAndFlag_of_exec_eq_setRegFlag (b := s.reg y - s.reg x) rfl (byte_sub_toNat _ _)
      (noBorrowFlag_toNat _ _)

end Sys2Proof.Machine

/-! Proofs about the index register (43_index_memory.md): the load and the sum, R190 and R191. Both write `I` alone. -/

namespace Sys2Proof.Machine

/-! ### Writing `I` -/

theorem samePart_setI {p : Part} (s : State) (a : Word) (hp : p ≠ .index) : SamePart s (s.setI a) p := by
  cases p with
  | index => exact absurd rfl hp
  | _ => simp [SamePart]

theorem frame_setI (s : State) (a : Word) : Frame [.index] noReg s (s.setI a) := by
  refine ⟨?_, fun r _ => s.setI_reg a r, s.setI_keys a, s.setI_config a⟩
  intro p hp
  exact samePart_setI s a (List.ne_of_not_mem_cons hp)

/-! ### The load and the sum (R190, R191) -/

/-- `I` is a word of 16 bits: the sum is not cut to an address, and wraps only past 0xFFFF. -/
theorem word_add_zextByte_toNat (a : Word) (b : Byte) : (a + zextByte b).toNat = (a.toNat + b.toNat) % 65536 := by
  rw [BitVec.toNat_add, zextByte_toNat]

/-- Settles O34: each of the two is one `setI`. -/
theorem indexIsLoadedAndAddedTo : Obligations.IndexIsLoadedAndAddedTo := by
  unfold Obligations.IndexIsLoadedAndAddedTo
  intro nnn x s
  refine ⟨?ldINnn, ?addIVx⟩
  case ldINnn => exact ⟨s.setI (zextAddr nnn), rfl, zextAddr_toNat nnn, s.setI_pc _, frame_setI s _⟩
  case addIVx =>
    exact ⟨s.setI (s.i + zextByte (s.reg x)), rfl, word_add_zextByte_toNat s.i _, s.setI_pc _, frame_setI s _⟩

end Sys2Proof.Machine

/-! Proofs about the display (44_display.md): the clear, R210. It writes the display alone. -/

namespace Sys2Proof.Machine

/-! ### Writing the display -/

theorem samePart_setFb {p : Part} (s : State) (d : Display) (hp : p ≠ .display) : SamePart s (s.setFb d) p := by
  cases p with
  | display => exact absurd rfl hp
  | _ => simp [SamePart]

theorem frame_setFb (s : State) (d : Display) : Frame [.display] noReg s (s.setFb d) := by
  refine ⟨?_, fun r _ => s.setFb_reg d r, s.setFb_keys d, s.setFb_config d⟩
  intro p hp
  exact samePart_setFb s d (List.ne_of_not_mem_cons hp)

/-! ### The clear (R210) -/

/-- Settles O40: CLS is one `setFb` of the clear display. -/
theorem clearZeroesEveryPixel : Obligations.ClearZeroesEveryPixel := by
  unfold Obligations.ClearZeroesEveryPixel
  intro s
  exact ⟨s.setFb clearDisplay, rfl, clearDisplay_pixel, s.setFb_pc _, frame_setFb s _⟩

end Sys2Proof.Machine

/-! Proofs about the timer instructions (45_keypad_timers.md, section 3): R232, R235 and R236. The read writes
one general register; each of the other two writes one timer alone. -/

namespace Sys2Proof.Machine

/-! ### Writing a timer -/

theorem samePart_setDt {p : Part} (s : State) (b : Byte) (hp : p ≠ .delayTimer) : SamePart s (s.setDt b) p := by
  cases p with
  | delayTimer => exact absurd rfl hp
  | _ => simp [SamePart]

theorem frame_setDt (s : State) (b : Byte) : Frame [.delayTimer] noReg s (s.setDt b) := by
  refine ⟨?_, fun r _ => s.setDt_reg b r, s.setDt_keys b, s.setDt_config b⟩
  intro p hp
  exact samePart_setDt s b (List.ne_of_not_mem_cons hp)

theorem samePart_setSt {p : Part} (s : State) (b : Byte) (hp : p ≠ .soundTimer) : SamePart s (s.setSt b) p := by
  cases p with
  | soundTimer => exact absurd rfl hp
  | _ => simp [SamePart]

theorem frame_setSt (s : State) (b : Byte) : Frame [.soundTimer] noReg s (s.setSt b) := by
  refine ⟨?_, fun r _ => s.setSt_reg b r, s.setSt_keys b, s.setSt_config b⟩
  intro p hp
  exact samePart_setSt s b (List.ne_of_not_mem_cons hp)

/-! ### The read and the two writes (R232, R235, R236) -/

/-- Settles O45: the read is one `setReg`, the writes are one `setDt` and one `setSt`. -/
theorem timerInstructionsMoveOneByte : Obligations.TimerInstructionsMoveOneByte := by
  unfold Obligations.TimerInstructionsMoveOneByte
  intro x s
  refine ⟨?ldVxDt, ?ldDtVx, ?ldStVx⟩
  case ldVxDt => exact writesReg_of_exec_eq_setReg (b := s.dt) rfl rfl
  case ldDtVx => exact ⟨s.setDt (s.reg x), rfl, s.setDt_dt _, s.setDt_pc _, frame_setDt s _⟩
  case ldStVx => exact ⟨s.setSt (s.reg x), rfl, s.setSt_st _, s.setSt_pc _, frame_setSt s _⟩

end Sys2Proof.Machine

/-! Proofs about the operations offered to the surroundings (46_host_operations.md): the sound output, R254. -/

namespace Sys2Proof.Machine

/-! ### Sound output (R254) -/

theorem State.soundActive_eq_true_iff (s : State) : s.soundActive = true ↔ 0 < s.st.toNat :=
  decide_eq_true_iff

/-- Settles O52: the transaction answers `soundActive` and hands the state back. -/
theorem soundIsActiveWhileTheTimerRuns : Obligations.SoundIsActiveWhileTheTimerRuns := by
  unfold Obligations.SoundIsActiveWhileTheTimerRuns
  intro s
  exact ⟨s.soundActive, rfl, s.soundActive_eq_true_iff⟩

end Sys2Proof.Machine

/-! Proofs about the exceptions and the devices (60_exceptions.md): the timer countdown, R282. Ticks are two writes of
the state, one to each timer, of the timer counted down that many times. -/

namespace Sys2Proof.Machine

/-! ### One change of the state after another -/

theorem SamePart.trans {p : Part} {s t u : State} (hst : SamePart s t p) (htu : SamePart t u p) : SamePart s u p := by
  cases p with
  | stack =>
    obtain ⟨hsp, hstack⟩ := hst
    obtain ⟨hsp', hstack'⟩ := htu
    exact ⟨hsp'.trans hsp, fun k => (hstack' k).trans (hstack k)⟩
  | memory => exact fun a => (htu a).trans (hst a)
  | display => exact fun px py => (htu px py).trans (hst px py)
  | _ => exact Eq.trans htu hst

/-- Two changes together write the parts of both. -/
theorem Frame.trans {ps qs : List Part} {regs : Nibble → Prop} {s t u : State} (hst : Frame ps regs s t)
    (htu : Frame qs regs t u) : Frame (ps ++ qs) regs s u := by
  obtain ⟨hpart, hreg, hkeys, hconfig⟩ := hst
  obtain ⟨hpart', hreg', hkeys', hconfig'⟩ := htu
  refine ⟨?_, fun r hr => (hreg' r hr).trans (hreg r hr), hkeys'.trans hkeys, hconfig'.trans hconfig⟩
  intro p hp
  obtain ⟨hps, hqs⟩ := not_or.1 (mt List.mem_append.2 hp)
  exact (hpart p hps).trans (hpart' p hqs)

/-! ### The timer countdown (R282) -/

theorem countDown_toNat (b : Byte) : (countDown b).toNat = b.toNat - 1 := by
  unfold countDown
  split
  · bv_omega
  · omega

theorem countDown_iterate_toNat (n : Nat) (b : Byte) : (countDown^[n] b).toNat = b.toNat - n := by
  induction n generalizing b with
  | zero => rfl
  | succ n ih => rw [Function.iterate_succ_apply, ih, countDown_toNat]; omega

theorem transactAll_replicate_tickTimers (n : Nat) (s : State) :
    transactAll (List.replicate n .tickTimers) s =
      (s.setDt (countDown^[n] s.dt)).setSt (countDown^[n] s.st) := by
  induction n generalizing s with
  | zero => rfl
  | succ n ih => exact ih s.tickTimers

/-- Settles O49: ticks are one `setDt` and one `setSt`, each of the timer counted down as often. -/
theorem ticksFloorTheTimersAtZero : Obligations.TicksFloorTheTimersAtZero := by
  unfold Obligations.TicksFloorTheTimersAtZero
  intro n s
  rw [transactAll_replicate_tickTimers]
  exact ⟨rfl, countDown_iterate_toNat n s.dt, countDown_iterate_toNat n s.st, rfl,
    (frame_setDt s _).trans (frame_setSt _ _)⟩

end Sys2Proof.Machine

/-! Proofs about the encoding (30_encoding.md, sections 3, 4 and 6). -/

namespace Sys2Proof

/-! ### An opcode rebuilt from its fields (R91, R92) -/

theorem formatA_opFam_opNnn (op : Word) : formatA (opFam op) (opNnn op) = op := by
  apply BitVec.eq_of_toNat_eq; rw [formatA_toNat, opFam_toNat, opNnn_toNat]; omega

theorem formatXYN_opFields (op : Word) : formatXYN (opFam op) (opX op) (opY op) (opN op) = op := by
  apply BitVec.eq_of_toNat_eq; rw [formatXYN_toNat, opFam_toNat, opX_toNat, opY_toNat, opN_toNat]; omega

theorem formatXK_opFields (op : Word) : formatXK (opFam op) (opX op) (opKk op) = op := by
  apply BitVec.eq_of_toNat_eq; rw [formatXK_toNat, opFam_toNat, opX_toNat, opKk_toNat]; omega

theorem formatXS_opFields (op : Word) : formatXS (opFam op) (opX op) (opKk op) = op := formatXK_opFields op

/-! ### Decode and encode -/

theorem decode_encode (i : Instr) : decode (encode i) = some i := by
  cases i with
  | cls | ret => rfl
  | jp | call | ldINnn | jpV0 => simp [encode, decode]
  | seVxKk | sneVxKk | ldVxKk | addVxKk | rnd => simp [encode, decode]
  | seVxVy | sneVxVy | drw => simp [encode, decode]
  | ldVxVy | orVxVy | andVxVy | xorVxVy | addVxVy | subVxVy | shrVx | subnVxVy | shlVx =>
    simp [encode, decode, decodeFam8]
  | skp | sknp => simp [encode, decode, decodeFamE]
  | ldVxDt | ldVxK | ldDtVx | ldStVx | addIVx | ldFVx | ldBVx | ldMemVx | ldVxMem =>
    simp [encode, decode, decodeFamF]

theorem encode_of_decodeFam8 {op : Word} {i : Instr} (hf : opFam op = 0x8) (h : decodeFam8 op = some i) :
    encode i = op := by
  have key (n : Nibble) (hn : (opN op).toNat = n.toNat) : formatXYN 0x8 (opX op) (opY op) n = op := by
    rw [← BitVec.eq_of_toNat_eq hn, ← hf, formatXYN_opFields]
  unfold decodeFam8 at h
  split at h <;> cases h <;> exact key _ ‹_›

theorem encode_of_decodeFamE {op : Word} {i : Instr} (hf : opFam op = 0xE) (h : decodeFamE op = some i) :
    encode i = op := by
  have key (sel : Byte) (hk : (opKk op).toNat = sel.toNat) : formatXS 0xE (opX op) sel = op := by
    rw [← BitVec.eq_of_toNat_eq hk, ← hf, formatXS_opFields]
  unfold decodeFamE at h
  split at h <;> cases h <;> exact key _ ‹_›

theorem encode_of_decodeFamF {op : Word} {i : Instr} (hf : opFam op = 0xF) (h : decodeFamF op = some i) :
    encode i = op := by
  have key (sel : Byte) (hk : (opKk op).toNat = sel.toNat) : formatXS 0xF (opX op) sel = op := by
    rw [← BitVec.eq_of_toNat_eq hk, ← hf, formatXS_opFields]
  unfold decodeFamF at h
  split at h <;> cases h <;> exact key _ ‹_›

theorem formatA_of_opFam {op : Word} {f : Nibble} (hf : (opFam op).toNat = f.toNat) : formatA f (opNnn op) = op := by
  rw [← BitVec.eq_of_toNat_eq hf, formatA_opFam_opNnn]

theorem formatXK_of_opFam {op : Word} {f : Nibble} (hf : (opFam op).toNat = f.toNat) :
    formatXK f (opX op) (opKk op) = op := by
  rw [← BitVec.eq_of_toNat_eq hf, formatXK_opFields]

theorem formatXYN_of_opFam {op : Word} {f : Nibble} (hf : (opFam op).toNat = f.toNat) :
    formatXYN f (opX op) (opY op) (opN op) = op := by
  rw [← BitVec.eq_of_toNat_eq hf, formatXYN_opFields]

theorem encode_decode {op : Word} {i : Instr} (h : decode op = some i) : encode i = op := by
  unfold decode at h
  split at h
  case h_1 hf =>
    split_ifs at h with hcls hret
    · cases h; exact hcls.symm
    · cases h; exact hret.symm
  case h_2 | h_3 | h_11 | h_12 => cases h; exact formatA_of_opFam ‹_›
  case h_4 | h_5 | h_7 | h_8 | h_13 => cases h; exact formatXK_of_opFam ‹_›
  case h_6 | h_10 =>
    split_ifs at h with hn
    cases h
    rw [encode, ← hn]
    exact formatXYN_of_opFam ‹_›
  case h_14 => cases h; exact formatXYN_of_opFam ‹_›
  case h_9 hf => exact encode_of_decodeFam8 (BitVec.eq_of_toNat_eq hf) h
  case h_15 hf => exact encode_of_decodeFamE (BitVec.eq_of_toNat_eq hf) h
  case h_16 hf => exact encode_of_decodeFamF (BitVec.eq_of_toNat_eq hf) h
  case h_17 => cases h

/-! ### The rows of the opcode table (R95) -/

theorem row_accepts_encode (i : Instr) : i.row.accepts (encode i) := by
  cases i with
  | cls => exact Laws.EncodesItsRow.cls
  | ret => exact Laws.EncodesItsRow.ret
  | jp nnn => exact Laws.EncodesItsRow.jp nnn
  | call nnn => exact Laws.EncodesItsRow.call nnn
  | seVxKk x kk => exact Laws.EncodesItsRow.seVxKk x kk
  | sneVxKk x kk => exact Laws.EncodesItsRow.sneVxKk x kk
  | seVxVy x y => exact Laws.EncodesItsRow.seVxVy x y
  | sneVxVy x y => exact Laws.EncodesItsRow.sneVxVy x y
  | ldVxKk x kk => exact Laws.EncodesItsRow.ldVxKk x kk
  | addVxKk x kk => exact Laws.EncodesItsRow.addVxKk x kk
  | ldVxVy x y => exact Laws.EncodesItsRow.ldVxVy x y
  | orVxVy x y => exact Laws.EncodesItsRow.orVxVy x y
  | andVxVy x y => exact Laws.EncodesItsRow.andVxVy x y
  | xorVxVy x y => exact Laws.EncodesItsRow.xorVxVy x y
  | addVxVy x y => exact Laws.EncodesItsRow.addVxVy x y
  | subVxVy x y => exact Laws.EncodesItsRow.subVxVy x y
  | shrVx x y => exact Laws.EncodesItsRow.shrVx x y
  | subnVxVy x y => exact Laws.EncodesItsRow.subnVxVy x y
  | shlVx x y => exact Laws.EncodesItsRow.shlVx x y
  | ldINnn nnn => exact Laws.EncodesItsRow.ldINnn nnn
  | jpV0 nnn => exact Laws.EncodesItsRow.jpV0 nnn
  | rnd x kk => exact Laws.EncodesItsRow.rnd x kk
  | drw x y n => exact Laws.EncodesItsRow.drw x y n
  | skp x => exact Laws.EncodesItsRow.skp x
  | sknp x => exact Laws.EncodesItsRow.sknp x
  | ldVxDt x => exact Laws.EncodesItsRow.ldVxDt x
  | ldVxK x => exact Laws.EncodesItsRow.ldVxK x
  | ldDtVx x => exact Laws.EncodesItsRow.ldDtVx x
  | ldStVx x => exact Laws.EncodesItsRow.ldStVx x
  | addIVx x => exact Laws.EncodesItsRow.addIVx x
  | ldFVx x => exact Laws.EncodesItsRow.ldFVx x
  | ldBVx x => exact Laws.EncodesItsRow.ldBVx x
  | ldMemVx x => exact Laws.EncodesItsRow.ldMemVx x
  | ldVxMem x => exact Laws.EncodesItsRow.ldVxMem x

theorem row_mem_opcodeTable (i : Instr) : i.row ∈ opcodeTable := by
  cases i <;> simp [Instr.row, opcodeTable]

theorem fam_of_and_F000 {op p : Word} (h : op &&& 0xF000 = p) : (opFam op).toNat = p.toNat / 4096 := by
  rw [← opFam_toNat, ← h, and_F000, opFam_formatA]

theorem fam_n_of_and_F00F {op p : Word} (h : op &&& 0xF00F = p) :
    (opFam op).toNat = p.toNat / 4096 ∧ (opN op).toNat = p.toNat % 16 := by
  rw [← opFam_toNat, ← opN_toNat, ← h, and_F00F, opFam_formatXYN, opN_formatXYN]
  exact ⟨rfl, rfl⟩

theorem fam_kk_of_and_F0FF {op p : Word} (h : op &&& 0xF0FF = p) :
    (opFam op).toNat = p.toNat / 4096 ∧ (opKk op).toNat = p.toNat % 256 := by
  rw [← opFam_toNat, ← opKk_toNat, ← h, and_F0FF, opFam_formatXS, opKk_formatXS]
  exact ⟨rfl, rfl⟩

/-- Every row of the table is the row of what its own pattern decodes to. -/
theorem exists_row_eq {r : OpcodeRow} (hr : r ∈ opcodeTable) : ∃ i : Instr, i.row = r := by
  have h : ∀ r ∈ opcodeTable, (decode r.pattern).map Instr.row = some r := by decide
  obtain ⟨i, -, hi⟩ := Option.map_eq_some_iff.1 (h r hr)
  exact ⟨i, hi⟩

theorem decode_ne_none_of_row_accepts {op : Word} {i : Instr} (h : i.row.accepts op) : decode op ≠ none := by
  cases i with
  | cls | ret =>
    have hop := (BitVec.and_allOnes (x := op)).symm.trans h
    rw [hop]; decide
  | jp | call | seVxKk | sneVxKk | ldVxKk | addVxKk | ldINnn | jpV0 | rnd | drw =>
    simp [Instr.row, decode, fam_of_and_F000 h]
  | seVxVy | sneVxVy =>
    obtain ⟨hf, hn⟩ := fam_n_of_and_F00F h
    have hn0 : opN op = 0 := BitVec.eq_of_toNat_eq (by simpa [Instr.row] using hn)
    simp [Instr.row, decode, hf, hn0]
  | ldVxVy | orVxVy | andVxVy | xorVxVy | addVxVy | subVxVy | shrVx | subnVxVy | shlVx =>
    obtain ⟨hf, hn⟩ := fam_n_of_and_F00F h
    simp [Instr.row, decode, decodeFam8, hf, hn]
  | skp | sknp =>
    obtain ⟨hf, hk⟩ := fam_kk_of_and_F0FF h
    simp [Instr.row, decode, decodeFamE, hf, hk]
  | ldVxDt | ldVxK | ldDtVx | ldStVx | addIVx | ldFVx | ldBVx | ldMemVx | ldVxMem =>
    obtain ⟨hf, hk⟩ := fam_kk_of_and_F0FF h
    simp [Instr.row, decode, decodeFamF, hf, hk]

theorem row_accepts_of_decode {op : Word} {i : Instr} (h : decode op = some i) : i.row.accepts op :=
  encode_decode h ▸ row_accepts_encode i

theorem decode_eq_none_iff {op : Word} : decode op = none ↔ ∀ r ∈ opcodeTable, ¬ r.accepts op := by
  constructor
  · intro hnone r hr hacc
    obtain ⟨i, rfl⟩ := exists_row_eq hr
    exact decode_ne_none_of_row_accepts hacc hnone
  · intro hall
    cases hd : decode op with
    | none => rfl
    | some i => exact absurd (row_accepts_of_decode hd) (hall i.row (row_mem_opcodeTable i))

/-- Two rows that accept one opcode have patterns that agree where both masks look, which no two rows of the table
have. -/
theorem row_eq_of_accepts {op : Word} {r q : OpcodeRow} (hr : r ∈ opcodeTable) (hq : q ∈ opcodeTable)
    (hro : r.accepts op) (hqo : q.accepts op) : r = q := by
  have disjoint : ∀ r ∈ opcodeTable, ∀ q ∈ opcodeTable, r.pattern &&& q.mask = q.pattern &&& r.mask → r = q := by
    decide
  apply disjoint r hr q hq
  rw [← hro, ← hqo]
  ac_rfl

/-- Settles O1: every instruction is laid out in the format from which its family is decoded. -/
theorem decodeOfEncodeIsTheInstruction : Obligations.DecodeOfEncodeIsTheInstruction :=
  decode_encode

/-- Settles O2: each arm of the decoder reads all the fields of the format its instruction is encoded in. -/
theorem encodeOfDecodeIsTheOpcode : Obligations.EncodeOfDecodeIsTheOpcode :=
  fun _ _ h => encode_decode h

/-- Settles O3: a decoded opcode is an encoding, which its row accepts; every row lies in a family and selector that
the decoder lists; no two rows' patterns agree under both masks. -/
theorem decoderAgreesWithOpcodeTable : Obligations.DecoderAgreesWithOpcodeTable := by
  unfold Obligations.DecoderAgreesWithOpcodeTable
  refine ⟨?_, fun op => decode_eq_none_iff, fun op r hr q hq => row_eq_of_accepts hr hq⟩
  intro op i h
  exact ⟨row_mem_opcodeTable i, row_accepts_of_decode h⟩

/-- Settles O4, by decoding the ten words. -/
theorem workedOpcodesDecode : Obligations.WorkedOpcodesDecode := by
  unfold Obligations.WorkedOpcodesDecode
  decide

end Sys2Proof

/-! Everything an instruction can do (R124, R276), said once for the statements about who writes what, which errors
there are, and what every step keeps. -/

namespace Sys2Proof.Machine

/-- The shapes of change that an instruction which goes on makes of the state it finds. Each constructor says of the
instruction what the state table of 10_state.md asks of one that makes the change, and of the new values the bounds
that the invariant needs. -/
inductive Effect (i : Instr) (s : State) : State → Prop
  | movesPc (a : Word) (hpc : MayMovePc i) (ha : s.pc.toNat ≤ 4096 → a.toNat ≤ 0x10FE) : Effect i s (s.setPc a)
  | pushes (nnn : Addr12) (h : s.sp.val < 16) (hpc : MayMovePc i) (hstack : MayWrite .stack i) :
      Effect i s ((s.setStack ⟨s.sp.val + 1, by omega⟩ (s.stack.set s.sp.val s.pc h)).setPc (zextAddr nnn))
  | pops (h : 0 < s.sp.val) (hpc : MayMovePc i) (hstack : MayWrite .stack i) :
      Effect i s ((s.setStack ⟨s.sp.val - 1, by omega⟩ s.stack).setPc (s.stack[s.sp.val - 1]'(by omega)))
  | beginsWait (x : Nibble) (hpc : MayMovePc i) (hmode : MayWrite .mode i) :
      Effect i s ((s.setPc (s.pc - 2)).setMode (.waitingForKey x s.keys))
  | writesReg (x : Nibble) (b : Byte) (hx : HasDestination x i) : Effect i s (s.setReg x b)
  | writesRegFlag (x : Nibble) (b fl : Byte) (hx : HasDestination x i) (hflag : IsFlagInstr i) :
      Effect i s (s.setRegFlag x b fl)
  | loadsRegs (bs : List Byte) (hr : ∀ r : Nibble, r.toNat < bs.length → HasDestination r i) :
      Effect i s (s.loadRegs bs)
  | draws (x : Nibble) (b : Byte) (hx : HasDestination x i) (hdraw : MayWrite .draws i) :
      Effect i s (s.consumeDraw.setReg x b)
  | writesIndex (a : Word) (hindex : MayWrite .index i) : Effect i s (s.setI a)
  | writesDelay (b : Byte) (hdt : MayWrite .delayTimer i) : Effect i s (s.setDt b)
  | writesSound (b : Byte) (hst : MayWrite .soundTimer i) : Effect i s (s.setSt b)
  | stores (bs : List Byte) (hmem : MayWrite .memory i) (hfit : s.i.toNat + bs.length ≤ 4096) :
      Effect i s (s.storeBytes s.i.toNat bs)
  | clears (hfb : MayWrite .display i) : Effect i s (s.setFb clearDisplay)
  | drawsSprite (d : Display) (fl : Byte) (hfb : MayWrite .display i) (hflag : IsFlagInstr i) :
      Effect i s ((s.setFb d).setReg 0xF fl)

/-- The instruction's data address: the handlers that check one, with the bytes that they check (R278). -/
def DataOutOfRange (i : Instr) (s : State) : Prop :=
  (∃ x y n, i = .drw x y n ∧ n ≠ 0 ∧ 4096 < s.i.toNat + n.toNat) ∨
    ∃ x, (i = .ldBVx x ∧ 4095 < s.i.toNat + 2) ∨
      ((i = .ldMemVx x ∨ i = .ldVxMem x) ∧ 4095 < s.i.toNat + x.toNat)

/-- The errors a handler raises, each in its own condition (R278). -/
def OwnError (i : Instr) (s : State) (f : Fault) : Prop :=
  (f = .stackOverflow ∧ s.sp.val = 16 ∧ ∃ n, i = .call n) ∨
  (f = .stackUnderflow ∧ s.sp.val = 0 ∧ i = .ret) ∨
  (f = .memoryFault (max s.i.toNat 4096) ∧ DataOutOfRange i s)

/-- The instruction goes on with one of the effects, or stops with its own error. -/
def GoesOnOrFaults (i : Instr) (s : State) : Prop :=
  (∃ t, exec i s = .next t ∧ Effect i s t) ∨ ∃ f, exec i s = .fault f ∧ OwnError i s f

theorem goesOn {i : Instr} {s t : State} (h : exec i s = .next t) (he : Effect i s t) : GoesOnOrFaults i s :=
  .inl ⟨t, h, he⟩

theorem goesOn_of_skipIf {i : Instr} {s : State} {c : Bool} (h : exec i s = .next (s.skipIf c)) (hpc : MayMovePc i) :
    GoesOnOrFaults i s := by
  rw [State.skipIf_eq] at h
  refine goesOn h (.movesPc _ hpc fun hle => ?_)
  split <;> bv_omega

theorem goesOn_or_faults_of_guardRange {i : Instr} {s t : State} {n : Nat}
    (h : exec i s = guardRange s.i.toNat n (.next t)) (he : n = 0 ∨ s.i.toNat + n ≤ 4096 → Effect i s t)
    (hf : n ≠ 0 → 4096 < s.i.toNat + n → DataOutOfRange i s) : GoesOnOrFaults i s := by
  rcases guardRange_cases s.i.toNat n (.next t) with ⟨hfit, e⟩ | ⟨h0, hlt, e⟩
  · exact goesOn (h.trans e) (he hfit)
  · exact .inr ⟨_, h.trans e, .inr (.inr ⟨rfl, hf h0 hlt⟩)⟩

/-- Everything an instruction can do, one case for each handler. -/
theorem exec_cases (i : Instr) (s : State) : GoesOnOrFaults i s := by
  cases i with
  | cls => exact goesOn rfl (.clears (by simp [MayWrite]))
  | ret =>
    rcases execRet_cases s with ⟨h, e⟩ | ⟨h0, e⟩
    · exact goesOn e (.pops h (by simp [MayMovePc]) (by simp [MayWrite]))
    · exact .inr ⟨_, e, .inr (.inl ⟨rfl, h0, rfl⟩)⟩
  | call nnn =>
    rcases execCall_cases nnn s with ⟨h, e⟩ | ⟨h16, e⟩
    · exact goesOn e (.pushes nnn h (by simp [MayMovePc]) (by simp [MayWrite]))
    · exact .inr ⟨_, e, .inl ⟨rfl, h16, nnn, rfl⟩⟩
  | jp nnn =>
    refine goesOn rfl (.movesPc _ (by simp [MayMovePc]) fun _ => ?_)
    rw [zextAddr_toNat]; omega
  | jpV0 nnn =>
    refine goesOn rfl (.movesPc _ (by simp [MayMovePc]) fun _ => ?_)
    rw [zextAddr_add_zextByte_toNat]; omega
  | seVxKk | sneVxKk | seVxVy | sneVxVy | skp | sknp => exact goesOn_of_skipIf rfl (by simp [MayMovePc])
  | ldVxK x => exact goesOn rfl (.beginsWait x (by simp [MayMovePc]) (by simp [MayWrite]))
  | ldVxKk | addVxKk | ldVxVy | orVxVy | andVxVy | xorVxVy | ldVxDt =>
    exact goesOn rfl (.writesReg _ _ (by simp [HasDestination]))
  | addVxVy | subVxVy | shrVx | subnVxVy | shlVx =>
    exact goesOn rfl (.writesRegFlag _ _ _ (by simp [HasDestination]) (by simp [IsFlagInstr]))
  | rnd => exact goesOn rfl (.draws _ _ (by simp [HasDestination]) (by simp [MayWrite]))
  | ldINnn | addIVx | ldFVx => exact goesOn rfl (.writesIndex _ (by simp [MayWrite]))
  | ldDtVx => exact goesOn rfl (.writesDelay _ (by simp [MayWrite]))
  | ldStVx => exact goesOn rfl (.writesSound _ (by simp [MayWrite]))
  | drw x y n =>
    refine goesOn_or_faults_of_guardRange rfl
      (fun _ => .drawsSprite _ _ (by simp [MayWrite]) (by simp [IsFlagInstr])) ?_
    intro h0 hlt
    exact .inl ⟨x, y, n, rfl, fun h => h0 (by simp [h]), hlt⟩
  | ldBVx x =>
    refine goesOn_or_faults_of_guardRange rfl (fun hfit => .stores _ (by simp [MayWrite]) ?_) ?_
    · simpa [decimalDigits] using hfit
    · intro _ hlt
      exact .inr ⟨x, .inl ⟨rfl, by omega⟩⟩
  | ldMemVx x =>
    refine goesOn_or_faults_of_guardRange rfl (fun hfit => .stores _ (by simp [MayWrite]) ?_) ?_
    · rw [State.storedRegs_length]; omega
    · intro _ hlt
      exact .inr ⟨x, .inr ⟨.inl rfl, by omega⟩⟩
  | ldVxMem x =>
    refine goesOn_or_faults_of_guardRange rfl (fun _ => .loadsRegs _ fun r hr => ?_) ?_
    · rw [State.bytesAt_length] at hr
      simp [HasDestination]; omega
    · intro _ hlt
      exact .inr ⟨x, .inr ⟨.inr rfl, by omega⟩⟩

theorem effect_of_exec_next {i : Instr} {s t : State} (h : exec i s = .next t) : Effect i s t := by
  rcases exec_cases i s with ⟨u, hu, he⟩ | ⟨f, hf, -⟩
  · cases h.symm.trans hu; exact he
  · cases h.symm.trans hf

theorem ownError_of_exec_fault {i : Instr} {s : State} {f : Fault} (h : exec i s = .fault f) : OwnError i s f := by
  rcases exec_cases i s with ⟨u, hu, -⟩ | ⟨f', hf, he⟩
  · cases h.symm.trans hu
  · cases h.symm.trans hf; exact he

end Sys2Proof.Machine

/-! What the remaining operations of the state leave unchanged, as frames; the proofs about instructions use these. -/

namespace Sys2Proof.Machine

theorem Frame.mono {ps qs : List Part} {regs regs' : Nibble → Prop} {s t : State} (h : Frame ps regs s t)
    (hp : ps ⊆ qs) (hr : ∀ r, regs r → regs' r) : Frame qs regs' s t := by
  obtain ⟨hpart, hreg, hkeys, hconfig⟩ := h
  exact ⟨fun p hq => hpart p (mt (@hp p) hq), fun r hn => hreg r (mt (hr r) hn), hkeys, hconfig⟩

theorem Frame.of_noReg {ps : List Part} {regs : Nibble → Prop} {s t : State} (h : Frame ps noReg s t) :
    Frame ps regs s t :=
  h.mono (List.Subset.refl ps) fun _ => False.elim

theorem samePart_setMem {p : Part} (s : State) (m : Memory) (hp : p ≠ .memory) : SamePart s (s.setMem m) p := by
  cases p with
  | memory => exact absurd rfl hp
  | _ => simp [SamePart]

theorem frame_storeBytes (s : State) (a : Nat) (bs : List Byte) : Frame [.memory] noReg s (s.storeBytes a bs) := by
  refine ⟨?_, fun r _ => s.storeBytes_reg a bs r, s.storeBytes_keys a bs, s.storeBytes_config a bs⟩
  intro p hp
  exact samePart_setMem s _ (List.ne_of_not_mem_cons hp)

theorem samePart_setStack {p : Part} (s : State) (sp : Fin 17) (stack : Vector Word 16) (hp : p ≠ .stack) :
    SamePart s (s.setStack sp stack) p := by
  cases p with
  | stack => exact absurd rfl hp
  | _ => simp [SamePart]

theorem frame_setStack (s : State) (sp : Fin 17) (stack : Vector Word 16) :
    Frame [.stack] noReg s (s.setStack sp stack) := by
  refine ⟨?_, fun r _ => s.setStack_reg sp stack r, s.setStack_keys sp stack, s.setStack_config sp stack⟩
  intro p hp
  exact samePart_setStack s sp stack (List.ne_of_not_mem_cons hp)

theorem samePart_setMode {p : Part} (s : State) (m : Mode) (hp : p ≠ .mode) : SamePart s (s.setMode m) p := by
  cases p with
  | mode => exact absurd rfl hp
  | _ => simp [SamePart]

theorem frame_setMode (s : State) (m : Mode) : Frame [.mode] noReg s (s.setMode m) := by
  refine ⟨?_, fun r _ => s.setMode_reg m r, s.setMode_keys m, s.setMode_config m⟩
  intro p hp
  exact samePart_setMode s m (List.ne_of_not_mem_cons hp)

theorem samePart_consumeDraw {p : Part} (s : State) (hp : p ≠ .draws) : SamePart s s.consumeDraw p := by
  cases p with
  | draws => exact absurd rfl hp
  | _ => simp [SamePart]

theorem frame_consumeDraw (s : State) : Frame [.draws] noReg s s.consumeDraw := by
  refine ⟨?_, fun r _ => s.consumeDraw_reg r, s.consumeDraw_keys, s.consumeDraw_config⟩
  intro p hp
  exact samePart_consumeDraw s (List.ne_of_not_mem_cons hp)

theorem samePart_loadRegs (s : State) (bs : List Byte) (p : Part) : SamePart s (s.loadRegs bs) p := by
  cases p <;> simp [SamePart]

theorem frame_loadRegs (s : State) (bs : List Byte) : Frame [] (fun r => r.toNat < bs.length) s (s.loadRegs bs) := by
  refine ⟨fun p _ => samePart_loadRegs s bs p, ?_, s.loadRegs_keys bs, s.loadRegs_config bs⟩
  intro r hr
  rw [State.loadRegs_reg, dif_neg hr]

/-! ### Two operations after one another -/

theorem frame_setStack_setPc (s : State) (sp : Fin 17) (stack : Vector Word 16) (a : Word) :
    Frame [.stack] noReg s ((s.setStack sp stack).setPc a) :=
  (frame_setStack s sp stack).trans (frame_setPc _ a)

theorem frame_setPc_setMode (s : State) (a : Word) (m : Mode) : Frame [.mode] noReg s ((s.setPc a).setMode m) :=
  (frame_setPc s a).trans (frame_setMode _ m)

theorem frame_consumeDraw_setReg (s : State) (x : Nibble) (b : Byte) :
    Frame [.draws] (· = x) s (s.consumeDraw.setReg x b) :=
  (frame_consumeDraw s).of_noReg.trans (frame_setReg _ x b)

theorem frame_setFb_setReg (s : State) (d : Display) (x : Nibble) (b : Byte) :
    Frame [.display] (· = x) s ((s.setFb d).setReg x b) :=
  (frame_setFb s d).of_noReg.trans (frame_setReg _ x b)

end Sys2Proof.Machine

/-! Proofs about who writes what (10_state.md, sections 1, 2 and 8), from the effects of `exec`. -/

namespace Sys2Proof.Machine

/-- The conclusion of O16: what has changed is what the state table lets the instruction write. -/
def WritesOnlyItsOwn (i : Instr) (s t : State) : Prop :=
  (∀ r, ¬ HasDestination r i → ¬ (r = 0xF ∧ IsFlagInstr i) → t.reg r = s.reg r) ∧
  (¬ MayMovePc i → t.pc = s.pc) ∧
  (∀ p, ¬ MayWrite p i → SamePart s t p) ∧ t.keys = s.keys ∧ t.config = s.config

theorem writesOnlyItsOwn_of_frame {i : Instr} {s t : State} {parts : List Part} {regs : Nibble → Prop}
    (h : Frame parts regs s t) (hparts : ∀ p ∈ parts, MayWrite p i)
    (hregs : ∀ r, regs r → HasDestination r i ∨ (r = 0xF ∧ IsFlagInstr i)) (hpc : MayMovePc i ∨ t.pc = s.pc) :
    WritesOnlyItsOwn i s t := by
  obtain ⟨hpart, hreg, hkeys, hconfig⟩ := h
  refine ⟨?_, fun hn => hpc.resolve_left hn, fun p hp => hpart p (mt (hparts p) hp), hkeys, hconfig⟩
  intro r hd hf
  exact hreg r fun hr => (hregs r hr).elim hd hf

/-- The case of one part and no register. -/
theorem writesOnlyItsOwn_of_part {i : Instr} {s t : State} {p : Part} (h : Frame [p] noReg s t) (hp : MayWrite p i)
    (hpc : MayMovePc i ∨ t.pc = s.pc) : WritesOnlyItsOwn i s t :=
  writesOnlyItsOwn_of_frame h (by simpa using hp) (fun _ => False.elim) hpc

theorem Effect.writesOnlyItsOwn {i : Instr} {s t : State} (h : Effect i s t) : WritesOnlyItsOwn i s t := by
  cases h with
  | movesPc a hpc => exact writesOnlyItsOwn_of_frame (frame_setPc s a) (by simp) (fun _ => False.elim) (.inl hpc)
  | pushes nnn h hpc hstack | pops h hpc hstack =>
    exact writesOnlyItsOwn_of_part (frame_setStack_setPc s _ _ _) hstack (.inl hpc)
  | beginsWait x hpc hmode => exact writesOnlyItsOwn_of_part (frame_setPc_setMode s _ _) hmode (.inl hpc)
  | writesReg x b hx =>
    exact writesOnlyItsOwn_of_frame (frame_setReg s x b) (by simp) (fun r hr => .inl (hr ▸ hx)) (.inr rfl)
  | writesRegFlag x b fl hx hflag =>
    refine writesOnlyItsOwn_of_frame (frame_setRegFlag s x b fl) (by simp) ?_ (.inr rfl)
    rintro r (rfl | rfl)
    · exact .inl hx
    · exact .inr ⟨rfl, hflag⟩
  | loadsRegs bs hr =>
    exact writesOnlyItsOwn_of_frame (frame_loadRegs s bs) (by simp) (fun r h => .inl (hr r h)) (.inr rfl)
  | draws x b hx hdraw =>
    exact writesOnlyItsOwn_of_frame (frame_consumeDraw_setReg s x b) (by simpa using hdraw)
      (fun r hr => .inl (hr ▸ hx)) (.inr rfl)
  | writesIndex a hindex => exact writesOnlyItsOwn_of_part (frame_setI s a) hindex (.inr rfl)
  | writesDelay b hdt => exact writesOnlyItsOwn_of_part (frame_setDt s b) hdt (.inr rfl)
  | writesSound b hst => exact writesOnlyItsOwn_of_part (frame_setSt s b) hst (.inr rfl)
  | stores bs hmem => exact writesOnlyItsOwn_of_part (frame_storeBytes s _ bs) hmem (.inr rfl)
  | clears hfb => exact writesOnlyItsOwn_of_part (frame_setFb s _) hfb (.inr rfl)
  | drawsSprite d fl hfb hflag =>
    exact writesOnlyItsOwn_of_frame (frame_setFb_setReg s d 0xF fl) (by simpa using hfb)
      (fun r hr => .inr ⟨hr, hflag⟩) (.inr rfl)

/-- Settles O16: each effect is one or two operations of the state, and its frame names parts that the instruction may
write. -/
theorem eachPartIsWrittenOnlyByItsInstructions : Obligations.EachPartIsWrittenOnlyByItsInstructions :=
  fun _ _ _ h => (effect_of_exec_next h).writesOnlyItsOwn

/-- Settles O18: the register clause of O16 at VF. -/
theorem onlyFlagInstructionsWriteVFAsASideEffect : Obligations.OnlyFlagInstructionsWriteVFAsASideEffect := by
  unfold Obligations.OnlyFlagInstructionsWriteVFAsASideEffect
  intro i s t h hne
  obtain ⟨hreg, -⟩ := (effect_of_exec_next h).writesOnlyItsOwn
  by_contra hno
  obtain ⟨hflag, hdest⟩ := not_or.1 hno
  exact hne (hreg 0xF hdest fun hr => hflag hr.2)

end Sys2Proof.Machine

/-! Proofs about what a step does with its errors, its unknown opcodes and its instruction (40_step_cycle.md;
60_exceptions.md, section 4). -/

namespace Sys2Proof.Machine

theorem advancePc_toNat {s : State} (h : s.pc.toNat ≤ 4094) : s.advancePc.pc.toNat = s.pc.toNat + 2 := by
  rw [State.advancePc_pc]; bv_omega

theorem step_of_decode {s : State} {i : Instr} (hm : s.mode = .running) (hpc : s.pc.toNat ≤ 4094)
    (hd : decode s.fetchedOpcode = some i) : step s = exec i s.advancePc := by
  rw [step, cycle_of_fetch hm hpc, runOpcode_of_decode _ hd, runHandler_outcome]

/-- Settles O5: the two bytes are the fetched opcode, which `cycle` hands to its handler. -/
theorem stepRunsTheDecodedInstruction : Obligations.StepRunsTheDecodedInstruction :=
  fun _ _ hm hpc hd => step_of_decode hm hpc hd

theorem unknownOpcode_of_continuing {op : Word} {s : State} (h : s.config.unknownOpcodePolicy = .continuing) :
    unknownOpcode op s = ⟨.report op, s⟩ := by
  simp [unknownOpcode, h]

theorem unknownOpcode_of_halting {op : Word} {s : State} (h : s.config.unknownOpcodePolicy = .halting) :
    unknownOpcode op s = ⟨.fault (.unknownOpcode op), s⟩ := by
  simp [unknownOpcode, h]

/-- Settles O7: the opcode is handled on the state with `PC` advanced, and either policy hands that state back. -/
theorem unknownOpcodeFollowsThePolicy : Obligations.UnknownOpcodeFollowsThePolicy := by
  unfold Obligations.UnknownOpcodeFollowsThePolicy
  intro s hm hpc hd
  have hcycle : cycle s = unknownOpcode s.fetchedOpcode s.advancePc := by
    rw [cycle_of_fetch hm hpc, runOpcode_of_unknown _ hd]
  rw [step, hcycle, unknownOpcode_after]
  refine ⟨advancePc_toNat hpc, frame_setPc s _, ?_, ?_⟩
  · intro hpol
    rw [unknownOpcode_of_continuing (s := s.advancePc) hpol]; exact ⟨rfl, rfl⟩
  · intro hpol
    rw [unknownOpcode_of_halting (s := s.advancePc) hpol]; exact ⟨rfl, rfl⟩

/-- Settles O8: the cases of a cycle, of which only the fetch and the opcode's handler can fault. -/
theorem faultsArePrecise : Obligations.FaultsArePrecise := by
  unfold Obligations.FaultsArePrecise
  intro s f hf
  rcases cycle_cases s with ⟨xw, prev, hm, e⟩ | ⟨hm, hpc, e⟩ | ⟨hm, hpc, hd, e⟩ | ⟨i, hm, hpc, hd, e⟩
  case inl => simp [e] at hf
  case inr.inl => exact ⟨hm, .inl ⟨hpc, by rw [e]⟩⟩
  case inr.inr.inl => exact ⟨hm, .inr ⟨hpc, by rw [e, unknownOpcode_after]; rfl⟩⟩
  case inr.inr.inr =>
    refine ⟨hm, .inr ⟨hpc, ?_⟩⟩
    rw [e] at hf ⊢
    rcases runHandler_cases i s.advancePc with ⟨t, -, e'⟩ | ⟨f', -, e'⟩ | ⟨r, -, e'⟩
    · simp [e'] at hf
    · rw [e']; rfl
    · rw [e']; rfl

/-- Settles O9: the fault cases of `exec`. -/
theorem handlersRaiseOnlyTheirOwnError : Obligations.HandlersRaiseOnlyTheirOwnError :=
  fun _ _ _ h => ownError_of_exec_fault h

theorem OwnError.ne_romTooLarge {i : Instr} {s : State} {f : Fault} (h : OwnError i s f) : f ≠ .romTooLarge := by
  rcases h with ⟨rfl, -⟩ | ⟨rfl, -⟩ | ⟨rfl, -⟩ <;> simp

/-- Settles O10: the fetch and an unknown opcode answer no refusal and no RomTooLarge, and neither does `exec`. -/
theorem everyStepGoesOnOrFaults : Obligations.EveryStepGoesOnOrFaults := by
  unfold Obligations.EveryStepGoesOnOrFaults
  intro s
  rcases cycle_cases s with ⟨xw, prev, hm, e⟩ | ⟨hm, hpc, e⟩ | ⟨hm, hpc, hd, e⟩ | ⟨i, hm, hpc, hd, e⟩
  case inl => exact .inl ⟨s.waitStep xw prev, by rw [step, e]; rfl⟩
  case inr.inl => exact .inr ⟨_, step_of_fetchFault hm hpc, by simp⟩
  case inr.inr.inl =>
    rcases unknownOpcode_cases s.fetchedOpcode s.advancePc with ⟨-, e'⟩ | ⟨-, e'⟩
    · exact .inl ⟨s.advancePc, by rw [step, e, e']; rfl⟩
    · exact .inr ⟨.unknownOpcode s.fetchedOpcode, by rw [step, e, e']; rfl, by simp⟩
  case inr.inr.inr =>
    rw [step_of_decode hm hpc hd]
    rcases exec_cases i s.advancePc with ⟨t, ht, -⟩ | ⟨f, hf, hown⟩
    · exact .inl ⟨t, ht⟩
    · exact .inr ⟨f, hf, hown.ne_romTooLarge⟩

/-- A step that goes on answers the state that the cycle leaves. -/
theorem cycle_after_of_step_next {s t : State} (h : step s = .next t) : (cycle s).after = t := by
  unfold step StepReturn.outcome at h
  split at h <;> cases h <;> rfl

end Sys2Proof.Machine

/-! Proofs about the key wait (45_keypad_timers.md, section 4): R233, R234 and R238. -/

namespace Sys2Proof.Machine

/-! ### The lowest key (R234) -/

theorem lowestKey_eq_none_iff {m : Keys} : lowestKey m = none ↔ ∀ k : Nibble, m.getLsbD k.toNat = false := by
  rw [lowestKey, Option.map_eq_none_iff, List.find?_range_eq_none]
  constructor
  · intro h k
    simpa using h k.toNat k.isLt
  · intro h k hk
    simpa [Nat.mod_eq_of_lt hk] using h (BitVec.ofNat 4 k)

theorem lowestKey_eq_some {m : Keys} {k : Nibble} (hk : m.getLsbD k.toNat = true)
    (hlow : ∀ j : Nibble, j.toNat < k.toNat → m.getLsbD j.toNat = false) : lowestKey m = some k := by
  have hfind : (List.range 16).find? (fun n => m.getLsbD n) = some k.toNat := by
    rw [List.find?_range_eq_some]
    refine ⟨hk, List.mem_range.2 k.isLt, fun j hj => ?_⟩
    have hj16 : j % 16 = j := Nat.mod_eq_of_lt (hj.trans k.isLt)
    simpa [hj16] using hlow (BitVec.ofNat 4 j) (by simpa [hj16] using hj)
  rw [lowestKey, hfind, Option.map_some, BitVec.ofNat_toNat, BitVec.setWidth_eq]

theorem newlyDown_getLsbD (s : State) (prev : Keys) (k : Nibble) :
    (s.newlyDown prev).getLsbD k.toNat = true ↔ NewlyDown s prev k := by
  have := k.isLt
  simp [State.newlyDown, NewlyDown, this]

/-! ### One look (R234) -/

theorem waitStep_of_lowest {s : State} {xw : Nibble} {prev : Keys} {k : Nibble} (hk : NewlyDown s prev k)
    (hlow : ∀ j : Nibble, j.toNat < k.toNat → ¬ NewlyDown s prev j) :
    s.waitStep xw prev = ((s.setReg xw (zextNibble k)).advancePc).setMode .running := by
  have h : lowestKey (s.newlyDown prev) = some k :=
    lowestKey_eq_some ((newlyDown_getLsbD s prev k).2 hk)
      fun j hj => Bool.eq_false_iff.2 (mt (newlyDown_getLsbD s prev j).1 (hlow j hj))
  simp [State.waitStep, h]

theorem waitStep_of_no_press {s : State} {xw : Nibble} {prev : Keys} (h : ∀ k, ¬ NewlyDown s prev k) :
    s.waitStep xw prev = s.setMode (.waitingForKey xw s.keys) := by
  have h : lowestKey (s.newlyDown prev) = none :=
    lowestKey_eq_none_iff.2 fun k => Bool.eq_false_iff.2 (mt (newlyDown_getLsbD s prev k).1 (h k))
  simp [State.waitStep, h]

/-- Everything one look can do. -/
theorem waitStep_cases (s : State) (xw : Nibble) (prev : Keys) :
    (∃ k, s.waitStep xw prev = ((s.setReg xw (zextNibble k)).advancePc).setMode .running) ∨
    s.waitStep xw prev = s.setMode (.waitingForKey xw s.keys) := by
  unfold State.waitStep
  split
  · next k _ => exact .inl ⟨k, rfl⟩
  · exact .inr rfl

theorem frame_setReg_advancePc_setMode (s : State) (x : Nibble) (b : Byte) (m : Mode) :
    Frame [.mode] (· = x) s (((s.setReg x b).advancePc).setMode m) :=
  (frame_setReg s x b).trans (frame_setPc_setMode _ _ m).of_noReg

theorem frame_waitStep (s : State) (xw : Nibble) (prev : Keys) : Frame [.mode] (· = xw) s (s.waitStep xw prev) := by
  rcases waitStep_cases s xw prev with ⟨k, e⟩ | e
  · rw [e]; exact frame_setReg_advancePc_setMode s xw _ _
  · rw [e]; exact (frame_setMode s _).of_noReg

theorem step_of_waiting {s : State} {xw : Nibble} {prev : Keys} (h : s.mode = .waitingForKey xw prev) :
    step s = .next (s.waitStep xw prev) := by
  rw [step, cycle_of_waiting h]; rfl

theorem zextNibble_toNat (k : Nibble) : (zextNibble k).toNat = k.toNat :=
  BitVec.toNat_setWidth_of_le (by decide)

/-- Settles O46: one `setPc`, which takes the advance back, and one `setMode`. -/
theorem keyWaitBegins : Obligations.KeyWaitBegins := by
  unfold Obligations.KeyWaitBegins
  intro x s
  refine ⟨(s.setPc (s.pc - 2)).setMode (.waitingForKey x s.keys), rfl, ?_, rfl, frame_setPc_setMode s _ _⟩
  rw [State.setMode_pc, State.setPc_pc]
  bv_omega

/-- Settles O47: the two outcomes of a look, by whether a key is newly down. -/
theorem keyWaitTakesTheLowestNewKey : Obligations.KeyWaitTakesTheLowestNewKey := by
  unfold Obligations.KeyWaitTakesTheLowestNewKey
  intro s xw prev hm
  refine ⟨s.waitStep xw prev, step_of_waiting hm, ?_, ?_⟩
  · intro k hk hlow
    rw [waitStep_of_lowest hk hlow]
    refine ⟨?_, BitVec.toNat_add s.pc 2, rfl, frame_setReg_advancePc_setMode s xw _ _⟩
    rw [State.setMode_reg, State.advancePc_reg, State.reg_setReg_self, zextNibble_toNat]
  · intro hnone
    rw [waitStep_of_no_press hnone]
    exact ⟨rfl, rfl, frame_setMode s _⟩

/-- The key states seen at one look are those of now, so at the next look none of them is newly down. -/
theorem not_newlyDown_setMode_keys (s : State) (m : Mode) (k : Nibble) : ¬ NewlyDown (s.setMode m) s.keys k := by
  rintro ⟨hdown, hup⟩
  rw [State.setMode_keys, hup] at hdown
  cases hdown

theorem run_succ_of_step {n : Nat} {s t : State} (h : step s = .next t) :
    Host.Core.run Sys2Proof.core (n + 1) s = Host.Core.run Sys2Proof.core n t := by
  have h' : Sys2Proof.core.step s = .next t := h
  simp only [Host.Core.run, h']

/-- Settles O48, by induction on the number of steps: each look leaves a wait in which no key is newly down. -/
theorem keyWaitLastsWithoutAPress : Obligations.KeyWaitLastsWithoutAPress := by
  unfold Obligations.KeyWaitLastsWithoutAPress
  intro n
  induction n with
  | zero => exact fun s xw prev hm _ => ⟨s, rfl, ⟨prev, hm⟩, rfl, frame_setMode s s.mode⟩
  | succ n ih =>
    intro s xw prev hm hnone
    have hstep : step s = .next (s.setMode (.waitingForKey xw s.keys)) := by
      rw [step_of_waiting hm, waitStep_of_no_press hnone]
    obtain ⟨t, hrun, hwait, hpc, hframe⟩ :=
      ih (s.setMode (.waitingForKey xw s.keys)) xw s.keys rfl (not_newlyDown_setMode_keys s _)
    refine ⟨t, (run_succ_of_step hstep).trans hrun, hwait, hpc, ?_⟩
    exact ((frame_setMode s _).trans hframe).mono (by simp) fun _ h => h

end Sys2Proof.Machine

/-! Proofs about steps and the timers and keys (10_state.md, section 8; 40_step_cycle.md, section 1): R30 and R121. -/

namespace Sys2Proof.Machine

theorem Effect.timer_written_by {i : Instr} {s t : State} (h : Effect i s t) :
    (t.dt ≠ s.dt → ∃ x, i = .ldDtVx x) ∧ (t.st ≠ s.st → ∃ x, i = .ldStVx x) := by
  obtain ⟨-, -, hpart, -⟩ := h.writesOnlyItsOwn
  exact ⟨fun hne => by_contra fun hno => hne (hpart .delayTimer hno),
    fun hne => by_contra fun hno => hne (hpart .soundTimer hno)⟩

/-- Settles O17: the cases of a cycle, of which only a decoded instruction writes a timer, and then by O16. -/
theorem stepNeverCountsTimersNorWritesKeys : Obligations.StepNeverCountsTimersNorWritesKeys := by
  unfold Obligations.StepNeverCountsTimersNorWritesKeys
  intro s t h
  rcases cycle_cases s with ⟨xw, prev, hm, e⟩ | ⟨hm, hpc, e⟩ | ⟨hm, hpc, hd, e⟩ | ⟨i, hm, hpc, hd, e⟩
  case inl =>
    obtain ⟨hpart, -, hkeys, hconfig⟩ := frame_waitStep s xw prev
    cases h.symm.trans (step_of_waiting hm)
    exact ⟨hkeys, hconfig, absurd (hpart .delayTimer (by simp)), absurd (hpart .soundTimer (by simp))⟩
  case inr.inl => cases h.symm.trans (step_of_fetchFault hm hpc)
  case inr.inr.inl =>
    have ht := cycle_after_of_step_next h
    rw [e, unknownOpcode_after] at ht
    subst ht
    exact ⟨rfl, rfl, absurd rfl, absurd rfl⟩
  case inr.inr.inr =>
    rw [step_of_decode hm hpc hd] at h
    have he := effect_of_exec_next h
    obtain ⟨-, -, -, hkeys, hconfig⟩ := he.writesOnlyItsOwn
    obtain ⟨hdt, hst⟩ := he.timer_written_by
    rw [hd]
    exact ⟨hkeys, hconfig, fun hne => (hdt hne).imp fun x hx => congrArg some hx,
      fun hne => (hst hne).imp fun x hx => congrArg some hx⟩

end Sys2Proof.Machine

/-! Proofs about the machine's invariant (10_state.md, sections 4, 11 and 12): reset, a step, and every run of
transactions. -/

namespace Sys2Proof.Machine

theorem pcBounded_of_running {s : State} (hm : s.mode = .running) (h : s.pc.toNat ≤ 0x10FE) : s.pcBounded := by
  refine ⟨h, fun hw => ?_⟩
  simp [State.isWaiting, hm] at hw

/-! ### What a handler finds and what it leaves -/

/-- What every handler finds: the invariant, with `PC` just advanced past an address that could be fetched (R122,
R123). -/
structure State.Fetched (s : State) : Prop where
  config : s.config.wellFormed
  mem : s.mem.wf s.config
  stack : s.stackBounded
  running : s.mode = .running
  pc_ge : 2 ≤ s.pc.toNat
  pc_le : s.pc.toNat ≤ 4096

theorem State.Inv.fetched {s : State} (h : s.Inv) (hm : s.mode = .running) (hpc : s.pc.toNat ≤ 4094) :
    s.advancePc.Fetched := by
  obtain ⟨hconfig, hmem, hstack, -⟩ := h
  have hadv := advancePc_toNat hpc
  exact ⟨hconfig, hmem, hstack, hm, by omega, by omega⟩

theorem State.Fetched.inv {s : State} (h : s.Fetched) : s.Inv :=
  ⟨h.config, h.mem, h.stack, pcBounded_of_running h.running (h.pc_le.trans (by decide))⟩

/-- A call pushes the advanced `PC`, which is at most 4096 (R36). -/
theorem stackBounded_push {s : State} {sp : Fin 17} {a : Word} (hs : s.stackBounded) (h : s.sp.val < 16)
    (hsp : sp.val = s.sp.val + 1) (ha : a.toNat ≤ 4096) : (s.setStack sp (s.stack.set s.sp.val a h)).stackBounded := by
  intro k hk
  have hk' : k.val < s.sp.val + 1 := hsp ▸ hk
  rw [State.setStack_stack, Fin.getElem_fin, Vector.getElem_set]
  split
  · exact ha
  · exact hs k (by omega)

/-- The invariant reads no other field. -/
theorem State.Inv.of_eq {s t : State} (h : s.Inv) (hconfig : t.config = s.config) (hmem : t.mem = s.mem)
    (hsp : t.sp = s.sp) (hstack : t.stack = s.stack) (hpc : t.pc = s.pc) (hmode : t.mode = s.mode) : t.Inv := by
  cases s; cases t; cases hconfig; cases hmem; cases hsp; cases hstack; cases hpc; cases hmode
  exact h

theorem Effect.inv {i : Instr} {s t : State} (he : Effect i s t) (h : s.Fetched) : t.Inv := by
  have hinv := h.inv
  obtain ⟨hconfig, hmem, hstack, hrun, hge, hle⟩ := h
  have hpc : s.pcBounded := pcBounded_of_running hrun (by omega)
  cases he with
  | movesPc a _ ha => exact ⟨hconfig, hmem, hstack, pcBounded_of_running hrun (ha hle)⟩
  | pushes nnn hlt =>
    refine ⟨hconfig, hmem, stackBounded_push hstack hlt rfl hle, pcBounded_of_running hrun ?_⟩
    rw [State.setPc_pc, zextAddr_toNat]; omega
  | pops hpos =>
    refine ⟨hconfig, hmem, fun k hk => hstack k (hk.trans (by simp; omega)), pcBounded_of_running hrun ?_⟩
    exact (hstack ⟨s.sp.val - 1, by omega⟩ (by simp; omega)).trans (by decide)
  | beginsWait x =>
    have hpc : (s.pc - 2).toNat ≤ 4094 := by bv_omega
    refine ⟨hconfig, hmem, hstack, ?_, fun _ => hpc⟩
    rw [State.setMode_pc, State.setPc_pc]; omega
  | stores bs _ hfit =>
    exact ⟨hconfig, s.storeBytes_wf hfit hmem, hstack, hpc⟩
  | loadsRegs bs =>
    exact hinv.of_eq (s.loadRegs_config bs) (s.loadRegs_mem bs) (s.loadRegs_sp bs) (s.loadRegs_stack bs)
      (s.loadRegs_pc bs) (s.loadRegs_mode bs)
  | writesReg | writesRegFlag | draws | writesIndex | writesDelay | writesSound | clears | drawsSprite =>
    exact hinv.of_eq rfl rfl rfl rfl rfl rfl

/-- A look of a wait leaves `PC` where it can be fetched, or moves it on from there. -/
theorem waitStep_inv {s : State} {xw : Nibble} {prev : Keys} (h : s.Inv) (hm : s.mode = .waitingForKey xw prev) :
    (s.waitStep xw prev).Inv := by
  obtain ⟨hconfig, hmem, hstack, hpc, hwait⟩ := h
  have hpc4094 : s.pc.toNat ≤ 4094 := hwait (by simp [State.isWaiting, hm])
  rcases waitStep_cases s xw prev with ⟨k, e⟩ | e <;> rw [e]
  · refine ⟨hconfig, hmem, hstack, pcBounded_of_running rfl ?_⟩
    have := advancePc_toNat (s := s.setReg xw (zextNibble k)) hpc4094
    rw [State.setMode_pc, this, State.setReg_pc]; omega
  · exact ⟨hconfig, hmem, hstack, hpc, fun _ => hpc4094⟩

/-! ### A step -/

/-- What a step leaves meets the invariant, errors included (R127). -/
theorem cycle_after_inv {s : State} (h : s.Inv) : (cycle s).after.Inv := by
  rcases cycle_cases s with ⟨xw, prev, hm, e⟩ | ⟨hm, hpc, e⟩ | ⟨hm, hpc, hd, e⟩ | ⟨i, hm, hpc, hd, e⟩ <;> rw [e]
  case inl => exact waitStep_inv h hm
  case inr.inl => exact h
  case inr.inr.inl => rw [unknownOpcode_after]; exact (h.fetched hm hpc).inv
  case inr.inr.inr =>
    rcases runHandler_cases i s.advancePc with ⟨t, ht, e'⟩ | ⟨f, -, e'⟩ | ⟨r, -, e'⟩ <;> rw [e']
    · exact (effect_of_exec_next ht).inv (h.fetched hm hpc)
    · exact (h.fetched hm hpc).inv
    · exact (h.fetched hm hpc).inv

/-- Settles O11: the effects of `exec` on a state that was just fetched from, and a look of a wait. -/
theorem stepKeepsTheInvariant : Obligations.StepKeepsTheInvariant :=
  fun _ _ h hstep => cycle_after_of_step_next hstep ▸ cycle_after_inv h

/-! ### Reset and transactions -/

theorem resetWith_inv {c : Config} (h : c.wellFormed) : (State.resetWith c).Inv :=
  ⟨h, Memory.wf_nil c, fun _ hk => absurd hk (Nat.not_lt_zero _), pcBounded_of_running rfl (by simp [State.resetWith])⟩

/-- Settles O12: fresh memory lists nothing, the stack holds nothing, and `PC` is 0x200. -/
theorem resetMeetsTheInvariant : Obligations.ResetMeetsTheInvariant :=
  ⟨resetWith_inv (by decide), fun _ h => resetWith_inv h⟩

theorem loadTransaction_of_fits {bytes : List Byte} (s : State) (h : programFits bytes) :
    loadTransaction bytes s = (.done, s.storeBytes 0x200 bytes) := by
  simp [loadTransaction, loadProgram, h]

theorem loadTransaction_of_not_fits {bytes : List Byte} (s : State) (h : ¬ programFits bytes) :
    loadTransaction bytes s = (.loadFailed .romTooLarge, s) := by
  simp [loadTransaction, loadProgram, h]

theorem storeBytes_inv {s : State} {a : Nat} {bs : List Byte} (hfit : a + bs.length ≤ 4096) (h : s.Inv) :
    (s.storeBytes a bs).Inv := by
  obtain ⟨hconfig, hmem, hstack, hpc⟩ := h
  exact ⟨hconfig, s.storeBytes_wf hfit hmem, hstack, hpc⟩

theorem transact_inv (op : Transaction) {s : State} (h : s.Inv) : (transact op s).2.Inv := by
  cases op with
  | init =>
    obtain ⟨hconfig, -⟩ := h
    exact resetWith_inv hconfig
  | loadProgram bytes =>
    rw [transact]
    by_cases hfit : programFits bytes
    · rw [loadTransaction_of_fits s hfit]
      exact storeBytes_inv (by simp only [programFits, maxProgram] at hfit; omega) h
    · rw [loadTransaction_of_not_fits s hfit]
      exact h
  | step => exact cycle_after_inv h
  | tickTimers | setKeyState | displaySnapshot | soundActive => exact h

/-- Settles O13, by induction on the list: each transaction keeps the invariant. -/
theorem everyRunOfTransactionsKeepsTheInvariant : Obligations.EveryRunOfTransactionsKeepsTheInvariant := by
  unfold Obligations.EveryRunOfTransactionsKeepsTheInvariant
  intro ops
  induction ops with
  | nil => exact fun _ h => h
  | cons op ops ih => exact fun s h => ih _ (transact_inv op h)

end Sys2Proof.Machine

/-! Proofs about who reads what (10_state.md, section 8; 40_step_cycle.md, section 1): the sound timer and the key
states. -/

namespace Sys2Proof.Machine

/-- The sound timer and the key states changed, each by a function of its old value. -/
def State.mapStKeys (g : Byte → Byte) (h : Keys → Keys) (s : State) : State := (s.setSt (g s.st)).setKeys (h s.keys)

/-- A bounds check that does not depend on what `f` changes commutes with `f`. -/
theorem exec_eq_mapNext_of_guardRange {f : State → State} {i : Instr} {s s' t : State} {a n : Nat}
    (h : exec i s = guardRange a n (.next t)) (h' : exec i s' = guardRange a n (.next (f t))) :
    exec i s' = mapNext f (exec i s) := by
  rw [h, h']
  rcases guardRange_cases a n (.next t) with ⟨hfit, e⟩ | ⟨h0, hlt, e⟩
  · rw [e, guardRange_of_fits hfit]; rfl
  · rw [e, guardRange_of_not_fits h0 hlt]; rfl

theorem execCall_mapStKeys (g : Byte → Byte) (h : Keys → Keys) (nnn : Addr12) (s : State) :
    execCall nnn (s.mapStKeys g h) = mapNext (State.mapStKeys g h) (execCall nnn s) := by
  by_cases hlt : s.sp.val < 16
  · have hlt' : (s.mapStKeys g h).sp.val < 16 := hlt
    rw [execCall, execCall, State.push_of_lt _ hlt, State.push_of_lt _ hlt']; rfl
  · have h16 : s.sp.val = 16 := by omega
    have h16' : (s.mapStKeys g h).sp.val = 16 := h16
    rw [execCall, execCall, State.push_eq_none.2 h16, State.push_eq_none.2 h16']; rfl

theorem execRet_mapStKeys (g : Byte → Byte) (h : Keys → Keys) (s : State) :
    execRet (s.mapStKeys g h) = mapNext (State.mapStKeys g h) (execRet s) := by
  by_cases hpos : 0 < s.sp.val
  · have hpos' : 0 < (s.mapStKeys g h).sp.val := hpos
    rw [execRet, execRet, State.pop_of_pos hpos, State.pop_of_pos hpos']; rfl
  · have h0 : s.sp.val = 0 := by omega
    have h0' : (s.mapStKeys g h).sp.val = 0 := h0
    rw [execRet, execRet, State.pop_eq_none.2 h0, State.pop_eq_none.2 h0']; rfl

theorem skipIf_mapStKeys (g : Byte → Byte) (h : Keys → Keys) (s : State) (c : Bool) :
    (s.mapStKeys g h).skipIf c = (s.skipIf c).mapStKeys g h := by
  cases c <;> rfl

theorem setV_mapStKeys (g : Byte → Byte) (h : Keys → Keys) (s : State) (v : Vector Byte 16) :
    (s.mapStKeys g h).setV v = (s.setV v).mapStKeys g h := rfl

theorem loadRegs_mapStKeys (g : Byte → Byte) (h : Keys → Keys) (s : State) (bs : List Byte) :
    (s.mapStKeys g h).loadRegs bs = (s.loadRegs bs).mapStKeys g h :=
  setV_mapStKeys g h s _

/-- What an instruction does is the same whatever `ST` and the keys hold, unless it writes `ST` or reads the keys and
that piece is changed. -/
theorem exec_mapStKeys (g : Byte → Byte) (h : Keys → Keys) (i : Instr) (s : State)
    (hst : g = id ∨ ∀ x, i ≠ .ldStVx x) (hkeys : h = id ∨ ∀ x, i ≠ .skp x ∧ i ≠ .sknp x ∧ i ≠ .ldVxK x) :
    exec i (s.mapStKeys g h) = mapNext (State.mapStKeys g h) (exec i s) := by
  cases i with
  | ret => exact execRet_mapStKeys g h s
  | call nnn => exact execCall_mapStKeys g h nnn s
  | seVxKk | sneVxKk | seVxVy | sneVxVy => exact congrArg _ (skipIf_mapStKeys g h s _)
  | drw | ldBVx | ldMemVx => exact exec_eq_mapNext_of_guardRange rfl rfl
  | ldVxMem x =>
    have hload := loadRegs_mapStKeys g h s (s.bytesAt s.i.toNat (x.toNat + 1))
    exact exec_eq_mapNext_of_guardRange rfl (congrArg (fun t => guardRange s.i.toNat (x.toNat + 1) (.next t)) hload)
  | ldStVx x =>
    obtain rfl | hne := hst
    · rfl
    · exact absurd rfl (hne x)
  | skp x | sknp x =>
    obtain rfl | hne := hkeys
    · exact congrArg _ (skipIf_mapStKeys g id s _)
    · simp at hne
  | ldVxK x =>
    obtain rfl | hne := hkeys
    · rfl
    · simp at hne
  | cls | jp | jpV0 | ldVxKk | addVxKk | ldVxVy | orVxVy | andVxVy | xorVxVy | addVxVy | subVxVy | shrVx | subnVxVy
  | shlVx | rnd | ldINnn | addIVx | ldFVx | ldVxDt | ldDtVx => rfl

/-- Settles O19: `ST` alone is changed, so only LD_ST_VX is apart, and it writes `ST` from a register. -/
theorem noInstructionReadsTheSoundTimer : Obligations.NoInstructionReadsTheSoundTimer := by
  unfold Obligations.NoInstructionReadsTheSoundTimer
  intro i s b
  constructor
  · exact fun hst => exec_mapStKeys (fun _ => b) id i s (.inr hst) (.inl rfl)
  · rintro ⟨x, rfl⟩
    rfl

/-- Settles O20: the keys alone are changed. -/
theorem onlyKeyInstructionsReadTheKeys : Obligations.OnlyKeyInstructionsReadTheKeys :=
  fun i s k hkeys => exec_mapStKeys id (fun _ => k) i s (.inl rfl) (.inr hkeys)

end Sys2Proof.Machine

/-! Proofs about a jump to itself, CALL and RET (40_step_cycle.md, section 8; 41_control_transfer.md, section 2). -/

namespace Sys2Proof.Machine

/-! ### The jump to itself (R130, R141) -/

theorem zextAddr_setWidth {a : Word} (h : a.toNat ≤ 4095) : zextAddr (a.setWidth 12) = a := by
  apply BitVec.eq_of_toNat_eq
  rw [zextAddr_toNat, BitVec.toNat_setWidth]
  omega

theorem step_selfJump {s : State} (hm : s.mode = .running) (hpc : s.pc.toNat ≤ 4094)
    (hop : s.fetchedOpcode = encode (.jp (s.pc.setWidth 12))) : step s = .next s := by
  have hd : decode s.fetchedOpcode = some (.jp (s.pc.setWidth 12)) := by rw [hop, decode_encode]
  have hexec : exec (.jp (s.pc.setWidth 12)) s.advancePc = .next (s.advancePc.setPc (zextAddr (s.pc.setWidth 12))) := rfl
  rw [step_of_decode hm hpc hd, hexec, zextAddr_setWidth (by omega)]
  rfl

theorem safe_of_step_self {s : State} (h : step s = .next s) : Safe s := by
  intro k
  refine ⟨s, ?_⟩
  induction k with
  | zero => rfl
  | succ k ih => exact (run_succ_of_step h).trans ih

/-- Settles O14: `PC` is at most 4094, so the 12 bits of the operand hold it whole. -/
theorem selfJumpChangesNothing : Obligations.SelfJumpChangesNothing := by
  unfold Obligations.SelfJumpChangesNothing
  intro s hm hpc hop
  have hstep := step_selfJump hm hpc hop
  exact ⟨hstep, safe_of_step_self hstep⟩

/-! ### CALL and RET (R140, R142) -/

theorem stopsWith_of_exec {i : Instr} {s : State} {f : Fault} (h : exec i s = .fault f) : StopsWith i s f :=
  ⟨h, by simp [runHandler, h]⟩

theorem exec_call_of_lt {s : State} (nnn : Addr12) (h : s.sp.val < 16) :
    exec (.call nnn) s =
      .next ((s.setStack ⟨s.sp.val + 1, by omega⟩ (s.stack.set s.sp.val s.pc h)).setPc (zextAddr nnn)) := by
  rcases execCall_cases nnn s with ⟨_, e⟩ | ⟨h16, -⟩
  · exact e
  · omega

theorem exec_ret_of_pos {s : State} (h : 0 < s.sp.val) :
    exec .ret s =
      .next ((s.setStack ⟨s.sp.val - 1, by omega⟩ s.stack).setPc (s.stack[s.sp.val - 1]'(by omega))) := by
  rcases execRet_cases s with ⟨_, e⟩ | ⟨h0, -⟩
  · exact e
  · omega

/-- Settles O23: the two cases of CALL. -/
theorem callPushesTheReturnAddress : Obligations.CallPushesTheReturnAddress := by
  unfold Obligations.CallPushesTheReturnAddress
  intro nnn s
  constructor
  · intro h
    refine ⟨_, exec_call_of_lt nnn h, rfl, ?_, ?_, zextAddr_toNat nnn, frame_setStack_setPc s _ _ _⟩
    · simp
    · intro k hk
      simp [Vector.getElem_set_ne, hk.symm]
  · intro h16
    rcases execCall_cases nnn s with ⟨h, -⟩ | ⟨-, e⟩
    · omega
    · exact stopsWith_of_exec e

/-- Settles O24: the two cases of RET. -/
theorem returnPopsIntoPc : Obligations.ReturnPopsIntoPc := by
  unfold Obligations.ReturnPopsIntoPc
  intro s
  constructor
  · intro h
    exact ⟨_, exec_ret_of_pos h, rfl, rfl, fun _ => rfl, frame_setStack_setPc s _ _ _⟩
  · intro h0
    rcases execRet_cases s with ⟨h, -⟩ | ⟨-, e⟩
    · omega
    · exact stopsWith_of_exec e

/-- Settles O25: RET takes the entry at the old pointer, where CALL put the advanced `PC`. -/
theorem returnUndoesCall : Obligations.ReturnUndoesCall := by
  unfold Obligations.ReturnUndoesCall
  intro nnn s t t' hcall hsp hstack
  rcases execCall_cases nnn s with ⟨h, e⟩ | ⟨-, e⟩
  · cases hcall.symm.trans e
    have hpos : 0 < t'.sp.val := by rw [hsp]; exact Nat.succ_pos _
    refine ⟨_, exec_ret_of_pos hpos, ?_, ?_⟩
    · simp [hsp, hstack]
    · simp [hsp]
  · cases hcall.symm.trans e

end Sys2Proof.Machine

/-! Proofs about logic, shifts and the random load (42_alu.md, section 2): R163 to R165, R168, R170 and R171. -/

namespace Sys2Proof.Machine

theorem writesRegBits_of_exec_eq_setReg {i : Instr} {s : State} {x y : Nibble} {b : Byte} {f : Bool → Bool → Bool}
    (hexec : exec i s = .next (s.setReg x b))
    (hb : ∀ k, b.getLsbD k = f ((s.reg x).getLsbD k) ((s.reg y).getLsbD k)) : WritesRegBits i s x y f :=
  ⟨s.setReg x b, hexec, fun k _ => by rw [State.reg_setReg_self, hb], s.setReg_pc x b, frame_setReg s x b⟩

/-- Settles O29: each of the three is one `setReg` of the operation on words, which works bit by bit. -/
theorem logicWorksBitByBit : Obligations.LogicWorksBitByBit := by
  unfold Obligations.LogicWorksBitByBit
  intro x y s
  refine ⟨?or, ?and, ?xor⟩
  case or => exact writesRegBits_of_exec_eq_setReg (b := s.reg x ||| s.reg y) rfl fun _ => BitVec.getLsbD_or
  case and => exact writesRegBits_of_exec_eq_setReg (b := s.reg x &&& s.reg y) rfl fun _ => BitVec.getLsbD_and
  case xor => exact writesRegBits_of_exec_eq_setReg (b := s.reg x ^^^ s.reg y) rfl fun _ => BitVec.getLsbD_xor

theorem flagByte_toNat (b : Bool) : (flagByte b).toNat = b.toNat := by
  cases b <;> rfl

theorem byte_shr_one_toNat (a : Byte) : (a >>> 1).toNat = a.toNat / 2 := by
  rw [BitVec.toNat_ushiftRight, Nat.shiftRight_eq_div_pow]

theorem byte_shl_one_toNat (a : Byte) : (a <<< 1).toNat = a.toNat * 2 % 256 := by
  rw [BitVec.toNat_shiftLeft, Nat.shiftLeft_eq]

theorem shiftedOutRight_toNat (a : Byte) : (shiftedOutRight a).toNat = a.toNat % 2 := by
  rw [shiftedOutRight, flagByte_toNat, BitVec.getLsbD, Nat.toNat_testBit, Nat.pow_zero, Nat.div_one]

theorem shiftedOutLeft_toNat (a : Byte) : (shiftedOutLeft a).toNat = a.toNat / 128 := by
  have := a.isLt
  rw [shiftedOutLeft, flagByte_toNat, BitVec.getLsbD, Nat.toNat_testBit]
  omega

/-- Settles O32: each of the two is one `setRegFlag` of the shifted value and the bit shifted out. -/
theorem shiftsSetTheBitShiftedOut : Obligations.ShiftsSetTheBitShiftedOut := by
  unfold Obligations.ShiftsSetTheBitShiftedOut
  intro x y s
  constructor
  · exact writesRegAndFlag_of_exec_eq_setRegFlag (b := s.reg x >>> 1) rfl (byte_shr_one_toNat _)
      (shiftedOutRight_toNat _)
  · exact writesRegAndFlag_of_exec_eq_setRegFlag (b := s.reg x <<< 1) rfl (byte_shl_one_toNat _)
      (shiftedOutLeft_toNat _)

/-- Settles O33: one draw used up and one `setReg` of the masked byte. -/
theorem randomByteIsMasked : Obligations.RandomByteIsMasked := by
  unfold Obligations.RandomByteIsMasked
  intro x kk s
  have hx : (s.consumeDraw.setReg x (s.nextRandom &&& kk)).reg x = Config.randByte s.draws &&& kk :=
    State.reg_setReg_self _ _ _
  refine ⟨s.consumeDraw.setReg x (s.nextRandom &&& kk), rfl, hx, ?_, rfl, rfl, frame_consumeDraw_setReg s x _⟩
  rw [hx, BitVec.and_assoc, BitVec.and_not_self]
  exact BitVec.and_zero

end Sys2Proof.Machine

/-! Proofs about the skips on keys (45_keypad_timers.md, sections 1 and 2): R230, R231 and R237. -/

namespace Sys2Proof.Machine

theorem lowNibble_toNat (v : Byte) : (lowNibble v).toNat = v.toNat % 16 := by
  simp [lowNibble, BitVec.extractLsb'_toNat]

theorem keyDown_lowNibble (s : State) (v : Byte) : s.keyDown (lowNibble v) = s.keys.getLsbD (v.toNat % 16) := by
  rw [State.keyDown, lowNibble_toNat]

/-- Settles O27: both are `skipIf` of the key of the low four bits. -/
theorem keySkipsTestTheLowFourBits : Obligations.KeySkipsTestTheLowFourBits := by
  unfold Obligations.KeySkipsTestTheLowFourBits
  intro x s
  rw [← keyDown_lowNibble]
  constructor
  · exact skipsWhen_of_exec_eq_skipIf (b := s.keyDown (lowNibble (s.reg x))) rfl Iff.rfl
  · exact skipsWhen_of_exec_eq_skipIf (b := !s.keyDown (lowNibble (s.reg x))) rfl (by simp)

end Sys2Proof.Machine

/-! Proofs about the instructions that store and load (43_index_memory.md, section 2): R192 to R195, and the fetch of a
stored instruction, R71. -/

namespace Sys2Proof.Machine

/-! ### The decimal digits (R193) -/

theorem hundredsDigit_toNat (v : Byte) : (hundredsDigit v).toNat = v.toNat / 100 := by
  have := v.isLt
  rw [hundredsDigit, BitVec.toNat_ofNat]; omega

theorem tensDigit_toNat (v : Byte) : (tensDigit v).toNat = v.toNat / 10 % 10 := by
  rw [tensDigit, BitVec.toNat_ofNat]; omega

theorem onesDigit_toNat (v : Byte) : (onesDigit v).toNat = v.toNat % 10 := by
  rw [onesDigit, BitVec.toNat_ofNat]; omega

/-! ### Both stores as one (R193, R194) -/

/-- The bytes that a store puts at `I` and on. -/
def storedBytes (s : State) : Instr → List Byte
  | .ldBVx x => decimalDigits (s.reg x)
  | .ldMemVx x => s.storedRegs x
  | _ => []

theorem storedBytes_ne_nil {j : Instr} (hj : IsStore j) (s : State) : (storedBytes s j).length ≠ 0 := by
  obtain ⟨x, rfl | rfl⟩ := hj
  · simp [storedBytes, decimalDigits]
  · simp [storedBytes]

theorem exec_store {j : Instr} (hj : IsStore j) (s : State) :
    exec j s = guardRange s.i.toNat (storedBytes s j).length (.next (s.storeBytes s.i.toNat (storedBytes s j))) := by
  obtain ⟨x, rfl | rfl⟩ := hj
  · rfl
  · rw [storedBytes, State.storedRegs_length]; rfl

theorem exec_store_next {j : Instr} {s t : State} (hj : IsStore j) (h : exec j s = .next t) :
    s.i.toNat + (storedBytes s j).length ≤ 4096 ∧ t = s.storeBytes s.i.toNat (storedBytes s j) := by
  rw [exec_store hj, guardRange_next] at h
  exact ⟨h.1.resolve_left (storedBytes_ne_nil hj s), h.2⟩

theorem exec_store_of_fits {j : Instr} {s : State} (hj : IsStore j)
    (h : s.i.toNat + (storedBytes s j).length ≤ 4096) :
    exec j s = .next (s.storeBytes s.i.toNat (storedBytes s j)) := by
  rw [exec_store hj, guardRange_of_fits (.inr h)]

theorem exec_store_of_not_fits {j : Instr} {s : State} (hj : IsStore j)
    (h : 4096 < s.i.toNat + (storedBytes s j).length) : StopsWith j s (.memoryFault (max s.i.toNat 4096)) :=
  stopsWith_of_exec (by rw [exec_store hj, guardRange_of_not_fits (storedBytes_ne_nil hj s) h])

/-- Settles O36: the three digits are what is stored. -/
theorem decimalDigitsAreStored : Obligations.DecimalDigitsAreStored := by
  unfold Obligations.DecimalDigitsAreStored
  intro x s hwf
  have hj : IsStore (.ldBVx x) := ⟨x, .inl rfl⟩
  have hlen : (storedBytes s (.ldBVx x)).length = 3 := rfl
  constructor
  · intro hle
    have hfit : s.i.toNat + (storedBytes s (.ldBVx x)).length ≤ 4096 := by omega
    have hbyte (k : Nat) (hk : k < 3) := s.storeBytes_byteAt_inside (k := k) hfit hwf (hlen ▸ hk)
    refine ⟨_, exec_store_of_fits hj hfit, ?_, ?_, ?_, ?_, rfl, frame_storeBytes s _ _⟩
    · exact (congrArg _ (hbyte 0 (by omega))).trans (hundredsDigit_toNat _)
    · exact (congrArg _ (hbyte 1 (by omega))).trans (tensDigit_toNat _)
    · exact (congrArg _ (hbyte 2 (by omega))).trans (onesDigit_toNat _)
    · exact fun a ha => s.storeBytes_byteAt_outside (by omega)
  · intro hlt
    exact exec_store_of_not_fits hj (by omega)

/-- Settles O37: register `k` is the byte `k` of what is stored. -/
theorem registersAreStored : Obligations.RegistersAreStored := by
  unfold Obligations.RegistersAreStored
  intro x s hwf
  have hj : IsStore (.ldMemVx x) := ⟨x, .inr rfl⟩
  have hlen : (storedBytes s (.ldMemVx x)).length = x.toNat + 1 := s.storedRegs_length x
  constructor
  · intro hle
    have hfit : s.i.toNat + (storedBytes s (.ldMemVx x)).length ≤ 4096 := by omega
    refine ⟨_, exec_store_of_fits hj hfit, ?_, ?_, rfl, frame_storeBytes s _ _⟩
    · intro k hk
      rw [s.storeBytes_byteAt_inside hfit hwf (by omega)]
      exact (s.storedRegs_getElem x k.toNat _).trans (by simp)
    · exact fun a ha => s.storeBytes_byteAt_outside (by omega)
  · intro hlt
    exact exec_store_of_not_fits hj (by omega)

/-! ### The load (R195) -/

theorem exec_ldVxMem_of_fits {x : Nibble} {s : State} (h : s.i.toNat + x.toNat ≤ 4095) :
    exec (.ldVxMem x) s = .next (s.loadRegs (s.bytesAt s.i.toNat (x.toNat + 1))) :=
  guardRange_of_fits (.inr (by omega))

theorem loadRegs_bytesAt_reg (s : State) {x k : Nibble} (a : Nat) (hk : k.toNat ≤ x.toNat) :
    (s.loadRegs (s.bytesAt a (x.toNat + 1))).reg k = s.byteAt (a + k.toNat) := by
  rw [State.loadRegs_reg, dif_pos (by rw [State.bytesAt_length]; omega), State.bytesAt_getElem]

/-- Settles O38: register `k` is loaded with the byte `k` of the `x + 1` bytes at `I`. -/
theorem registersAreLoaded : Obligations.RegistersAreLoaded := by
  unfold Obligations.RegistersAreLoaded
  intro x s
  constructor
  · intro hle
    refine ⟨_, exec_ldVxMem_of_fits hle, fun k hk => loadRegs_bytesAt_reg s _ hk, s.loadRegs_pc _, ?_⟩
    refine (frame_loadRegs s _).mono (List.Subset.refl []) fun r hr => ?_
    rw [State.bytesAt_length] at hr
    omega
  · intro hlt
    exact stopsWith_of_exec (guardRange_of_not_fits (Nat.succ_ne_zero _) (by omega))

/-- Settles O39: what O37 says of the stored bytes is what O38 says is loaded, `I` being the same. -/
theorem loadGivesBackWhatWasStored : Obligations.LoadGivesBackWhatWasStored := by
  unfold Obligations.LoadGivesBackWhatWasStored
  intro x s t v hwf hstore
  have hfit : s.i.toNat + x.toNat ≤ 4095 := by
    have hle := (exec_store_next ⟨x, .inr rfl⟩ hstore).1
    rw [storedBytes, State.storedRegs_length] at hle
    omega
  obtain ⟨t', ht', hbyte, -, -, hframe⟩ := (registersAreStored x s hwf).1 hfit
  cases hstore.symm.trans ht'
  obtain ⟨hpart, -⟩ := hframe
  have hi : t.i = s.i := hpart .index (by simp)
  obtain ⟨u, hu, hreg, -⟩ := (registersAreLoaded x (t.setV v)).1 (by rw [State.setV_i, hi]; exact hfit)
  refine ⟨u, hu, fun k hk => ?_⟩
  rw [hreg k hk, State.setV_i, State.setV_byteAt, hi, hbyte k hk]

/-! ### A stored instruction fetched (R71) -/

theorem storesAt_ldMemVx_iff (x : Nibble) (s : State) (a : Nat) (b : Byte) :
    StoresAt (.ldMemVx x) s a b ↔ ∃ k : Nibble, k.toNat ≤ x.toNat ∧ a = s.i.toNat + k.toNat ∧ b = s.reg k := by
  simp only [StoresAt, Instr.ldMemVx.injEq, reduceCtorEq, false_and, exists_false, or_false, exists_and_left,
    exists_eq_left']

theorem storesAt_ldBVx_iff (x : Nibble) (s : State) (a : Nat) (b : Byte) :
    StoresAt (.ldBVx x) s a b ↔ (a = s.i.toNat ∧ b = hundredsDigit (s.reg x)) ∨
      (a = s.i.toNat + 1 ∧ b = tensDigit (s.reg x)) ∨ (a = s.i.toNat + 2 ∧ b = onesDigit (s.reg x)) := by
  simp only [StoresAt, Instr.ldBVx.injEq, reduceCtorEq, false_and, exists_false, false_or, exists_eq_left']
  simp only [← BitVec.toNat_inj, hundredsDigit_toNat, tensDigit_toNat, onesDigit_toNat]

theorem storesAt_iff {j : Instr} (hj : IsStore j) (s : State) (a : Nat) (b : Byte) :
    StoresAt j s a b ↔ ∃ k, ∃ h : k < (storedBytes s j).length, a = s.i.toNat + k ∧ b = (storedBytes s j)[k] := by
  obtain ⟨x, rfl | rfl⟩ := hj
  · have hlen : (storedBytes s (.ldBVx x)).length = 3 := rfl
    rw [storesAt_ldBVx_iff]
    constructor
    · rintro (⟨rfl, rfl⟩ | ⟨rfl, rfl⟩ | ⟨rfl, rfl⟩)
      · exact ⟨0, by omega, rfl, rfl⟩
      · exact ⟨1, by omega, rfl, rfl⟩
      · exact ⟨2, by omega, rfl, rfl⟩
    · rintro ⟨k, hk, rfl, rfl⟩
      rw [hlen] at hk
      interval_cases k
      · exact .inl ⟨rfl, rfl⟩
      · exact .inr (.inl ⟨rfl, rfl⟩)
      · exact .inr (.inr ⟨rfl, rfl⟩)
  · rw [storesAt_ldMemVx_iff]
    simp only [storedBytes, State.storedRegs_length, State.storedRegs_getElem]
    constructor
    · rintro ⟨k, hk, rfl, rfl⟩
      exact ⟨k.toNat, by omega, rfl, by simp⟩
    · rintro ⟨k, hk, rfl, rfl⟩
      have hk16 : k % 16 = k := Nat.mod_eq_of_lt (by omega)
      exact ⟨BitVec.ofNat 4 k, by simp [hk16]; omega, by simp [hk16], rfl⟩

theorem byteAt_of_holdsAfterStore {j : Instr} {s t : State} {a : Nat} {b : Byte} (hwf : s.mem.wf s.config)
    (hj : IsStore j) (h : exec j s = .next t) (hb : HoldsAfterStore j s a b) : t.byteAt a = b := by
  obtain ⟨hfit, rfl⟩ := exec_store_next hj h
  rcases hb with hst | ⟨hno, rfl⟩
  · obtain ⟨k, hk, rfl, rfl⟩ := (storesAt_iff hj s a b).1 hst
    exact s.storeBytes_byteAt_inside hfit hwf hk
  · apply s.storeBytes_byteAt_outside
    by_contra hin
    have hk : a - s.i.toNat < (storedBytes s j).length := by omega
    exact hno _ ((storesAt_iff hj s a _).2 ⟨a - s.i.toNat, hk, by omega, rfl⟩)

/-- Settles O15: the two bytes at `PC` hold what the store is to leave there, and a store leaves the mode Running. -/
theorem storeIsSeenByTheNextFetch : Obligations.StoreIsSeenByTheNextFetch := by
  unfold Obligations.StoreIsSeenByTheNextFetch
  intro s t j i hi lo hwf hm hj h hpc hhi hlo
  have hop : t.fetchedOpcode = opcodeOfBytes hi lo := by
    rw [State.fetchedOpcode, byteAt_of_holdsAfterStore hwf hj h hhi, byteAt_of_holdsAfterStore hwf hj h hlo]
  have hmt : t.mode = .running := by
    obtain ⟨-, rfl⟩ := exec_store_next hj h
    exact hm
  exact ⟨hop, fun hd => step_of_decode hmt hpc (hop ▸ hd)⟩

end Sys2Proof.Machine

/-! Proofs about the font, `init`, `load_program` and the key and display operations (43_index_memory.md, section 2;
46_host_operations.md; 70_reset_and_hazards.md, section 1). -/

namespace Sys2Proof.Machine

/-! ### Fresh memory (R35, R310) -/

theorem freshByte_fontBase_add {c : Config} {k : Nat} (h : k < 80) : freshByte c (c.fontBase + k) = c.font[k] := by
  simp [freshByte, h]

theorem freshByte_outside_font {c : Config} {a : Nat} (h : a < c.fontBase ∨ c.fontBase + 80 ≤ a) :
    freshByte c a = 0 :=
  dif_neg (by omega)

theorem byteAt_of_mem_eq_nil {s : State} (h : s.mem = []) (a : Nat) : s.byteAt a = freshByte s.config a := by
  rw [State.byteAt, h]; rfl

/-! ### The glyph of a digit (R192) -/

/-- R6's constraint keeps every glyph's address below 65536. -/
theorem glyphAddress_toNat {c : Config} (h : c.wellFormed) (v : Byte) :
    (BitVec.ofNat 16 (glyphAddress c (lowNibble v))).toNat = c.fontBase + 5 * (v.toNat % 16) := by
  rw [BitVec.toNat_ofNat, glyphAddress, fontGlyphBytes, lowNibble_toNat]
  simp only [Config.wellFormed] at h
  omega

/-- Settles O35: one `setI` of the glyph's address, where fresh memory holds the font. -/
theorem fontAddressOfADigit : Obligations.FontAddressOfADigit := by
  unfold Obligations.FontAddressOfADigit
  intro x s hwf
  have hi := glyphAddress_toNat hwf (s.reg x)
  refine ⟨s.setI (BitVec.ofNat 16 (glyphAddress s.config (lowNibble (s.reg x)))), rfl, hi, rfl, frame_setI s _, ?_⟩
  intro hmem k hk
  rw [State.setI_byteAt, State.setI_i, hi, byteAt_of_mem_eq_nil hmem, Nat.add_assoc, freshByte_fontBase_add]

/-! ### `init` (R310) -/

theorem asAfterInit_resetWith (c : Config) (n : Nat) : AsAfterInit ((State.resetWith c).setDraws n) := by
  refine ⟨?_, rfl, rfl, rfl, ?_, rfl, rfl, ?_, ?_, ?_, rfl, rfl⟩
  · intro r
    simp [State.reg, State.resetWith]
  · intro k
    simp [State.resetWith]
  · intro a ha
    rw [byteAt_of_mem_eq_nil rfl]
    exact freshByte_outside_font ha
  · intro k
    rw [byteAt_of_mem_eq_nil rfl]
    exact freshByte_fontBase_add k.isLt
  · intro px py
    simp [Display.pixel, State.resetWith]

theorem defaultFont_eq_glyphsOfR311 :
    ∀ (d : Fin 16) (k : Fin 5), defaultFont[5 * d.val + k.val] = glyphsOfR311[d].extractLsb' (8 * (4 - k.val)) 8 := by
  decide

/-- Settles O53: the reset state and the state after `init` are `resetWith` of a configuration. -/
theorem initLeavesTheResetValues : Obligations.InitLeavesTheResetValues := by
  unfold Obligations.InitLeavesTheResetValues
  refine ⟨asAfterInit_resetWith defaultConfig 0, rfl, rfl, defaultFont_eq_glyphsOfR311, ?_⟩
  intro s
  exact ⟨s.initialised, rfl, asAfterInit_resetWith s.config s.draws, rfl⟩

/-! ### `load_program` (R251) -/

theorem programFits_iff {bytes : List Byte} : programFits bytes ↔ bytes.length ≤ 3584 := Iff.rfl

/-- Settles O50: the bytes are stored at 0x200 and on, or the state is handed back. -/
theorem programIsCopiedOrRefusedWhole : Obligations.ProgramIsCopiedOrRefusedWhole := by
  unfold Obligations.ProgramIsCopiedOrRefusedWhole
  intro bytes s hwf
  constructor
  · intro hle
    have hfit : 0x200 + bytes.length ≤ 4096 := by omega
    refine ⟨s.storeBytes 0x200 bytes, loadTransaction_of_fits s (programFits_iff.2 hle), ?_, ?_, rfl,
      frame_storeBytes s _ _⟩
    · exact fun k hk => s.storeBytes_byteAt_inside hfit hwf hk
    · exact fun a ha => s.storeBytes_byteAt_outside ha
  · intro hlt
    exact loadTransaction_of_not_fits s (mt programFits_iff.1 (by omega))

/-! ### Keys and the display (R252, R253) -/

theorem writeKey_getLsbD (keys : Keys) (k j : Nibble) (pressed : Bool) :
    (writeKey keys k pressed).getLsbD j.toNat = if j = k then pressed else keys.getLsbD j.toNat := by
  have hj : j.toNat < 16 := j.isLt
  by_cases hjk : j = k
  · subst hjk
    cases pressed <;> simp [writeKey, hj]
  · have hne : j.toNat ≠ k.toNat := mt BitVec.eq_of_toNat_eq hjk
    cases pressed <;> simp [writeKey, hj, hjk, hne]

/-- Settles O51: one key is written, and the snapshot is the display itself. -/
theorem keysAreSetOneByOneAndTheDisplayIsReadWhole : Obligations.KeysAreSetOneByOneAndTheDisplayIsReadWhole := by
  unfold Obligations.KeysAreSetOneByOneAndTheDisplayIsReadWhole
  intro s k pressed
  constructor
  · exact ⟨s.setKeyState k pressed, rfl, rfl, fun j => writeKey_getLsbD s.keys k j pressed⟩
  · exact ⟨s.fb, rfl, fun _ _ => rfl⟩

end Sys2Proof.Machine

/-! Proofs about DRW (44_display.md, sections 2 and 3): R211 to R215. -/

namespace Sys2Proof.Machine

/-! ### The pixels a sprite hits (R211, R212, R214) -/

theorem bytesAt_getD (s : State) (a n r : Nat) : (s.bytesAt a n).getD r 0 = if r < n then s.byteAt (a + r) else 0 := by
  rw [List.getD_eq_getElem?_getD]
  split
  · next h => rw [List.getElem?_eq_getElem (by simpa using h), State.bytesAt_getElem]; rfl
  · next h => rw [List.getElem?_eq_none (by simpa using h)]; rfl

/-- The sprite bit at a pixel, read as `drawRows` reads it: in the byte of the pixel's own row. -/
theorem spriteHits_iff {s : State} {x y n : Nibble} {px : Fin 64} {py : Fin 32} :
    SpriteHits s x y n px py ↔ startRow (s.reg y) ≤ py.val ∧
      (spriteRow (startColumn (s.reg x))
        ((s.bytesAt s.i.toNat n.toNat).getD (py.val - startRow (s.reg y)) 0)).getLsbD px.val = true := by
  have hpx := px.isLt
  rw [bytesAt_getD, startRow, startColumn]
  constructor
  · rintro ⟨r, c, hr, hc, hx, hy, hbit⟩
    have hrow : py.val - (s.reg y).toNat % 32 = r := by omega
    have hcol : px.val - (s.reg x).toNat % 64 = c := by omega
    rw [hrow, if_pos hr, spriteRow_getLsbD, hcol, hbit]
    simp; omega
  · rintro ⟨hrow, hbit⟩
    split at hbit
    · next hr =>
      rw [spriteRow_getLsbD, Bool.and_eq_true, decide_eq_true_eq] at hbit
      obtain ⟨⟨-, hge, hlt⟩, hbit⟩ := hbit
      exact ⟨_, px.val - (s.reg x).toNat % 64, hr, by omega, by omega, by omega, hbit⟩
    · simp at hbit

theorem drawSprite_pixel_of_hit {s : State} {x y n : Nibble} {px : Fin 64} {py : Fin 32}
    (h : SpriteHits s x y n px py) : (s.drawSprite x y n).1.pixel px py = !s.fb.pixel px py := by
  obtain ⟨hrow, hbit⟩ := spriteHits_iff.1 h
  rw [State.drawSprite, drawRows_pixel, hbit, decide_eq_true hrow, Bool.and_self, Bool.xor_true]

theorem drawSprite_pixel_of_not_hit {s : State} {x y n : Nibble} {px : Fin 64} {py : Fin 32}
    (h : ¬ SpriteHits s x y n px py) : (s.drawSprite x y n).1.pixel px py = s.fb.pixel px py := by
  rw [spriteHits_iff, ← decide_eq_true_iff (p := _ ≤ _), ← Bool.and_eq_true, Bool.not_eq_true] at h
  rw [State.drawSprite, drawRows_pixel, h, Bool.xor_false]

theorem drawSprite_collides_iff {s : State} {x y n : Nibble} :
    (s.drawSprite x y n).2 = true ↔ ∃ px py, SpriteHits s x y n px py ∧ s.fb.pixel px py = true := by
  simp only [State.drawSprite, drawRows_collides, spriteHits_iff]
  refine exists_congr fun px => exists_congr fun py => ?_
  tauto

/-! ### DRW (R211, R213, R215) -/

theorem flagByte_eq_one_iff {b : Bool} : flagByte b = 1 ↔ b = true := by
  cases b <;> decide

theorem flagByte_eq_zero_iff {b : Bool} : flagByte b = 0 ↔ b = false := by
  cases b <;> decide

/-- The state after a DRW that completes. -/
def State.afterDraw (s : State) (x y n : Nibble) : State :=
  (s.setFb (s.drawSprite x y n).1).setReg 0xF (flagByte (s.drawSprite x y n).2)

theorem exec_drw_next_iff {s t : State} {x y n : Nibble} :
    exec (.drw x y n) s = .next t ↔ (n.toNat = 0 ∨ s.i.toNat + n.toNat ≤ 4096) ∧ t = s.afterDraw x y n :=
  guardRange_next

theorem afterDraw_flag_eq_one_iff {s : State} {x y n : Nibble} :
    (s.afterDraw x y n).reg 0xF = 1 ↔ ∃ px py, SpriteHits s x y n px py ∧ s.fb.pixel px py = true := by
  rw [State.afterDraw, State.reg_setReg_self, flagByte_eq_one_iff, drawSprite_collides_iff]

theorem afterDraw_flag_eq_zero_or_one (s : State) (x y n : Nibble) :
    (s.afterDraw x y n).reg 0xF = 0 ∨ (s.afterDraw x y n).reg 0xF = 1 := by
  rw [State.afterDraw, State.reg_setReg_self, flagByte_eq_zero_iff, flagByte_eq_one_iff]
  exact (Bool.eq_false_or_eq_true _).symm

theorem afterDraw_pixel_of_hit {s : State} {x y n : Nibble} {px : Fin 64} {py : Fin 32}
    (h : SpriteHits s x y n px py) : (s.afterDraw x y n).fb.pixel px py = !s.fb.pixel px py :=
  drawSprite_pixel_of_hit h

theorem afterDraw_pixel_of_not_hit {s : State} {x y n : Nibble} {px : Fin 64} {py : Fin 32}
    (h : ¬ SpriteHits s x y n px py) : (s.afterDraw x y n).fb.pixel px py = s.fb.pixel px py :=
  drawSprite_pixel_of_not_hit h

/-- A pixel changes exactly when it is hit. -/
theorem afterDraw_pixel_flips_iff {s : State} {x y n : Nibble} {px : Fin 64} {py : Fin 32} :
    (s.afterDraw x y n).fb.pixel px py = !s.fb.pixel px py ↔ SpriteHits s x y n px py := by
  refine ⟨fun h => by_contra fun hno => ?_, afterDraw_pixel_of_hit⟩
  rw [afterDraw_pixel_of_not_hit hno] at h
  exact (Bool.eq_not_self _).1 h

/-- Settles O41: the pixels and the collision of the sprite, and one display and one register written. -/
theorem drawFlipsThePixelsTheSpriteHits : Obligations.DrawFlipsThePixelsTheSpriteHits := by
  unfold Obligations.DrawFlipsThePixelsTheSpriteHits
  intro x y n s hfit
  have hfit' : n.toNat = 0 ∨ s.i.toNat + n.toNat ≤ 4096 := hfit.imp_left fun h => by rw [h]; rfl
  refine ⟨s.afterDraw x y n, exec_drw_next_iff.2 ⟨hfit', rfl⟩, fun _ _ => afterDraw_pixel_of_hit,
    fun _ _ => afterDraw_pixel_of_not_hit, afterDraw_flag_eq_one_iff.2, ?_, rfl, frame_setFb_setReg s _ _ _⟩
  intro hclear
  refine (afterDraw_flag_eq_zero_or_one s x y n).resolve_right fun hone => ?_
  obtain ⟨px, py, hhit, hset⟩ := afterDraw_flag_eq_one_iff.1 hone
  rw [hclear px py hhit] at hset
  cases hset

/-- Settles O42: the pixels that are cleared are those that were 1 and are hit. -/
theorem collisionMeansAPixelWasCleared : Obligations.CollisionMeansAPixelWasCleared := by
  unfold Obligations.CollisionMeansAPixelWasCleared
  intro x y n s t h
  obtain ⟨-, rfl⟩ := exec_drw_next_iff.1 h
  refine ⟨?_, afterDraw_flag_eq_one_iff, afterDraw_flag_eq_zero_or_one s x y n⟩
  rw [afterDraw_flag_eq_one_iff]
  refine exists_congr fun px => exists_congr fun py => ?_
  rw [and_comm]
  refine and_congr_right fun hset => ?_
  rw [← afterDraw_pixel_flips_iff, hset]; rfl

/-- With the registers as they were, the second draw hits the same pixels: DRW changes neither `I` nor memory. -/
theorem spriteHits_afterDraw_setV {s : State} {x y n : Nibble} {px : Fin 64} {py : Fin 32} :
    SpriteHits ((s.afterDraw x y n).setV s.v) x y n px py ↔ SpriteHits s x y n px py :=
  Iff.rfl

/-- Settles O43: the second draw flips back what the first flipped, and meets a 1 where the first set one. -/
theorem drawingTwiceRestoresTheDisplay : Obligations.DrawingTwiceRestoresTheDisplay := by
  unfold Obligations.DrawingTwiceRestoresTheDisplay
  intro x y n s t h
  obtain ⟨hfit, rfl⟩ := exec_drw_next_iff.1 h
  refine ⟨((s.afterDraw x y n).setV s.v).afterDraw x y n, exec_drw_next_iff.2 ⟨hfit, rfl⟩, ?_, ?_⟩
  · intro px py
    by_cases hhit : SpriteHits s x y n px py
    · rw [afterDraw_pixel_of_hit (spriteHits_afterDraw_setV.2 hhit), State.setV_fb, afterDraw_pixel_of_hit hhit,
        Bool.not_not]
    · rw [afterDraw_pixel_of_not_hit (mt spriteHits_afterDraw_setV.1 hhit), State.setV_fb,
        afterDraw_pixel_of_not_hit hhit]
  · rw [afterDraw_flag_eq_one_iff]
    refine exists_congr fun px => exists_congr fun py => ?_
    rw [spriteHits_afterDraw_setV, State.setV_fb, ← afterDraw_pixel_flips_iff]
    cases s.fb.pixel px py <;> cases (s.afterDraw x y n).fb.pixel px py <;> decide

/-- Settles O44: the bounds check stands before everything else in DRW. -/
theorem drawChecksEveryByteFirst : Obligations.DrawChecksEveryByteFirst := by
  unfold Obligations.DrawChecksEveryByteFirst
  intro x y n s h0 hlt
  have hn : n.toNat ≠ 0 := fun h => h0 (BitVec.eq_of_toNat_eq h)
  exact stopsWith_of_exec (guardRange_of_not_fits hn hlt)

end Sys2Proof.Machine
